-- ==== Sys2Proof/Word.lean ====
section
/-! DEFINITION. The machine's word: a byte of 8 bits, bit 7 the most significant (00_scope.md R10). Every quantity of
the block is unsigned; lengths, counts and times are natural numbers (R116, R142, R202). -/

namespace Sys2Proof

/-- One byte (R10). A byte sequence (R11) is a `List Byte`, index 0 first. -/
abbrev Byte := BitVec 8

/-- The 56-bit header word `H` of a frame (R82), most significant byte first. -/
abbrev HeaderWord := BitVec 56

end Sys2Proof
end

