-- ==== Sys2Proof/Config.lean ====
section
/-! DEFINITION. The constants the source fixes (00_scope.md R8) and the parameters an implementation fixes (R9; the
host's, 93_implementation_defined.md I2, I4, I9). The parameters' values stand in `State.par`, which no step writes
(log entry 4), so a statement about every state is a statement about every choice of them. -/

namespace Sys2Proof

/-- A natural number or infinity: the type of RETRY_MAX, QDEPTH and CHUNK_MAX (R9). -/
inductive Limit where
  | fin (n : Nat)
  | inf
deriving DecidableEq, Repr

namespace Config

/-- `SYNC` (R8): the two bytes in wire order. -/
def sync0 : Byte := 0x55#8
def sync1 : Byte := 0xAA#8

/-- `TRAILER` (R8): the two bytes in wire order. -/
def trailer0 : Byte := 0xCC#8
def trailer1 : Byte := 0x33#8

/-- `HDR_LEN` (R8): sync 2, kind 1, ack 1, id 1, length 2. -/
def hdrLen : Nat := 7

/-- `OVERHEAD` (R8): header, checksum and trailer, the length of the shortest frame. -/
def overhead : Nat := 10

/-- `MAX_FRAME` (R8). -/
def maxFrame : Nat := 1024

/-- `MAX_PAYLOAD` (R8): 1024 less the 10 bytes of overhead. -/
def maxPayload : Nat := 1014

/-- `KIND_DATA` (R8), covering data, heartbeat and bare ack. -/
def kindData : Byte := 0x00#8

/-- `KIND_HANDSHAKE` (R8). -/
def kindHandshake : Byte := 0x01#8

/-- `KIND_HANDSHAKE_ACK` (R8). -/
def kindHandshakeAck : Byte := 0x02#8

end Config

/-- The parameters of R9, and the host's of I2, I4 and I9. Times are milliseconds. -/
structure Params where
  /-- `RETRY_MAX` (R9, R197): retransmissions of one message after its first transmission. -/
  retryMax : Limit
  /-- `QDEPTH` (R9, R181): capacity of the Outbound Queue, at least 1 (`Params.Ok`). -/
  qdepth : Limit
  /-- `CHUNK_MAX` (R9, R130): the largest chunk one RX_PUSH accepts, at least 1 (`Params.Ok`). -/
  chunkMax : Limit
  /-- `LIVENESS_MS` (R161), a host parameter. -/
  livenessMs : Limit
  /-- The host's minimum spacing of accepted handshakes (R155). -/
  handshakeSpacing : Nat
  /-- The host's liveness extension after a handshake (R155). -/
  livenessExt : Nat
  /-- Direct mode, one flag (I9, I10): the host skips the handshake (R151) and the liveness check (R161). -/
  direct : Bool
deriving DecidableEq, Repr

/-- The defaults of R9 and R236. DESIGN CHOICE (log entry 4; unsafe for a claim that rests on the number):
LIVENESS_MS has no default in the spec (D27); 6000 is the larger of the source's two figures. -/
def Params.default : Params where
  retryMax := .fin 5
  qdepth := .inf
  chunkMax := .inf
  livenessMs := .fin 6000
  handshakeSpacing := 1000
  livenessExt := 2000
  direct := false

/-- A bound is at least 1. -/
abbrev Limit.Positive (l : Limit) : Prop := l ≠ .fin 0

/-- The types R9 gives the parameters: QDEPTH and CHUNK_MAX are natural numbers of at least 1, or infinite. -/
abbrev Params.Ok (par : Params) : Prop := par.qdepth.Positive ∧ par.chunkMax.Positive

end Sys2Proof
end

