-- ==== Sys2Proof/Syntax.lean ====
section
/-! DEFINITION. The packet value (00_scope.md R15), the causes (60_exceptions.md R222), the operation codes' names
(30_encoding.md R96), the selectors and arms (R97), and `Instr`: one constructor per row of spec/opcode_table.json, in
the table's order. R5 fixes what an "instruction" of this block is: a form, a frame, an operation or an arm. -/

namespace Sys2Proof

/-- A packet as a value (R15): what DECODE returns and the RX port presents. -/
structure Packet where
  kind : Byte
  ack : Byte
  id : Byte
  payload : List Byte
deriving DecidableEq, Repr

/-- The causes of R222 that are not events. -/
inductive Cause where
  | payloadTooLong
  | badLength
  | badSync
  | badTrailer
  | badChecksum
  | garbageByte
  | oversizeLength
  | tooLong
  | queueFull
  | chunkTooLong
  | badOperation
  | faulted
deriving DecidableEq, Repr

/-- The result of VERIFY (R111). -/
inductive Verdict where
  | ok
  | bad (c : Cause)
deriving DecidableEq, Repr

/-- The fourteen operations of R96, by name. -/
inductive OpCode where
  | reset | xorsum | verify | encode | decode | rxPush | rxFlush
  | enqMsg | enqHb | setHsack | setAck | ackRx | tick | clear
deriving DecidableEq, Repr

/-- The reassembler selector `r = {g, s, l, e}` of R97. -/
structure RsmSel where
  g : Bool
  s : Bool
  l : Bool
  e : Bool
deriving DecidableEq, Repr

/-- The five arms of RX_PUSH (R97). -/
inductive RsmArm where
  | finish | skip | discard | wait | extract
deriving DecidableEq, Repr

/-- The tick selector `t = {p, m, h, x, a}` of R97. -/
structure TickSel where
  p : Bool
  m : Bool
  h : Bool
  x : Bool
  a : Bool
deriving DecidableEq, Repr

/-- The seven arms of TICK (R97). -/
inductive TickArm where
  | hsack | collapse | hb | msg | exhausted | bareack | idle
deriving DecidableEq, Repr

/-- The instructions: one constructor per row of spec/opcode_table.json. -/
inductive Instr where
  /-- CTRL0 (R90, R157): a received packet with kind 0 and id 0. -/
  | ctrl0 (ack : Byte) (payload : List Byte)
  /-- DATA (R90, R156): a received packet with kind 0 and a nonzero id. -/
  | data (ack id : Byte) (payload : List Byte)
  /-- HANDSHAKE (R90, R155): a received packet with kind 1. -/
  | handshake (ack id : Byte) (payload : List Byte)
  /-- HANDSHAKE_ACK (R90, R159): a received packet with kind 2. -/
  | handshakeAck (ack id : Byte) (payload : List Byte)
  /-- UNKNOWN (R90, R160): a received packet with kind 3 or more. -/
  | unknown (kind ack id : Byte) (payload : List Byte)
  /-- DATA(a,i,p) (R91, R194): the emitted application message. -/
  | txData (ack id : Byte) (payload : List Byte)
  /-- HEARTBEAT(a) (R91, R193): the emitted heartbeat. -/
  | txHeartbeat (ack : Byte)
  /-- BAREACK(a) (R91, R198): the emitted bare ack. -/
  | txBareAck (ack : Byte)
  /-- HANDSHAKE_ACK (R91, R191): the emitted control reply. -/
  | txHandshakeAck
  /-- HANDSHAKE (R91, R170): the handshake the host has built and writes. -/
  | txHandshake
  | reset
  | xorsum (s : List Byte)
  | verify (s : List Byte)
  | encode (kind ack id : Byte) (payload : List Byte)
  | decode (s : List Byte)
  | rxPush (chunk : List Byte)
  | rxFlush
  | enqMsg (payload : List Byte)
  | enqHb
  | setHsack
  | setAck (i : Byte)
  | ackRx (a : Byte)
  | tick
  | clear
  | rsmEnd
  | rsmSkip
  | rsmDiscard
  | rsmWait
  | rsmExtract
  | tHsack
  | tCollapse
  | tHb
  | tMsg
  | tExhausted
  | tBareack
  | tIdle
deriving DecidableEq, Repr

end Sys2Proof
end

