-- ==== Sys2Proof/WellFormed.lean ====
section
/-! DEFINITION. When an instruction is one the spec's encodings can carry: a form's fields fit its form (30_encoding.md
R90) and its payload fits a frame (R80); a byte-sequence operand's length fits its 16-bit count (R96). An arm has no
operand and is always well formed. Meanings are total on ill-formed instructions too: nothing here guards `exec`. -/

namespace Sys2Proof

/-- A payload that fits a frame (R86). -/
abbrev FitsFrame (p : List Byte) : Prop := p.length ≤ 1014

/-- A byte sequence whose length fits the 16-bit operand count of R96. -/
abbrev FitsCount (s : List Byte) : Prop := s.length ≤ 65535

/-- The well-formedness check. -/
def WellFormed : Instr → Bool
  | .ctrl0 _ payload => decide (FitsFrame payload)
  | .data _ id payload => decide (id ≠ 0#8 ∧ FitsFrame payload)
  | .handshake _ _ payload => decide (FitsFrame payload)
  | .handshakeAck _ _ payload => decide (FitsFrame payload)
  | .unknown kind _ _ payload => decide (3 ≤ kind.toNat ∧ FitsFrame payload)
  | .txData _ id payload => decide (id ≠ 0#8 ∧ FitsFrame payload)
  | .txHeartbeat _ => true
  | .txBareAck ack => decide (ack ≠ 0#8)
  | .txHandshakeAck => true
  | .txHandshake => true
  | .reset => true
  | .xorsum s => decide (FitsCount s)
  | .verify s => decide (FitsCount s)
  | .encode _ _ _ payload => decide (FitsCount payload)
  | .decode s => decide (FitsCount s)
  | .rxPush chunk => decide (FitsCount chunk)
  | .rxFlush => true
  | .enqMsg payload => decide (FitsCount payload)
  | .enqHb => true
  | .setHsack => true
  | .setAck _ => true
  | .ackRx _ => true
  | .tick => true
  | .clear => true
  | .rsmEnd => true
  | .rsmSkip => true
  | .rsmDiscard => true
  | .rsmWait => true
  | .rsmExtract => true
  | .tHsack => true
  | .tCollapse => true
  | .tHb => true
  | .tMsg => true
  | .tExhausted => true
  | .tBareack => true
  | .tIdle => true

end Sys2Proof
end

