-- ==== Sys2Proof/Decode.lean ====
section
/-! DEFINITION. The two binary encodings: the frame (30_encoding.md R80-R95, 40_codec.md R110-R113) and the command
port's operation codes (R96). First the decoders, total on any bytes and rejecting by name; after them the encoders. -/

namespace Sys2Proof

/-- `s[i]` (R11); every use is guarded by a length test (R142). -/
def byteAt (s : List Byte) (i : Nat) : Byte := s.getD i 0#8

/-- `s[i..j)` (R11). -/
def slice (s : List Byte) (i j : Nat) : List Byte := (s.drop i).take (j - i)

/-- `be16(h, l)` (R12, R55): the byte at the lower index is the more significant. -/
def be16 (h l : Byte) : Nat := 256 * h.toNat + l.toNat

/-- `hi8(v)` (R12) of a 16-bit value. -/
def hi8 (v : Nat) : Byte := BitVec.ofNat 8 (v / 256)

/-- `lo8(v)` (R12). -/
def lo8 (v : Nat) : Byte := BitVec.ofNat 8 v

/-- `xor_all(s)` (R12), XORSUM's loop (R110): from zero, left to right. -/
def xorAll (s : List Byte) : Byte := s.foldl (fun c b => c ^^^ b) 0#8

/-- The length field of a frame or of the front of RB (R86): `be16(s[5], s[6])`. -/
def declaredLen (s : List Byte) : Nat := be16 (byteAt s 5) (byteAt s 6)

/-- The full frame length (R92): `10 + L`. -/
def frameLen (s : List Byte) : Nat := Config.overhead + declaredLen s

/-- The sync marker at the front (R83). -/
def syncAtFront (s : List Byte) : Bool :=
  byteAt s 0 == Config.sync0 && byteAt s 1 == Config.sync1

/-- The trailer of a frame whose length field is `len` (R89). -/
def trailerAt (s : List Byte) (len : Nat) : Bool :=
  byteAt s (8 + len) == Config.trailer0 && byteAt s (9 + len) == Config.trailer1

/-- VERIFY (R111): four checks in this order, the first that fails decides the cause. -/
def verifyFrame (s : List Byte) : Verdict :=
  if s.length < Config.overhead then .bad .badLength
  else if declaredLen s > Config.maxPayload ∨ s.length ≠ frameLen s then .bad .badLength
  else if syncAtFront s = false then .bad .badSync
  else if trailerAt s (declaredLen s) = false then .bad .badTrailer
  else if xorAll (slice s 2 (7 + declaredLen s)) ≠ byteAt s (7 + declaredLen s) then .bad .badChecksum
  else .ok

/-- The fields DECODE takes out of a frame (R81, R113). -/
def packetFields (s : List Byte) : Packet where
  kind := byteAt s 2
  ack := byteAt s 3
  id := byteAt s 4
  payload := slice s 7 (7 + declaredLen s)

/-- DECODE (R113): `none` is the single verdict `ChecksumInvalid`. -/
def decodePacket (s : List Byte) : Option Packet :=
  match verifyFrame s with
  | .ok => some (packetFields s)
  | .bad _ => none

/-- The form of a packet (R90), first match wins: kind 0 with id 0, kind 0, kind 1, kind 2, any other kind. -/
def formOf (p : Packet) : Instr :=
  if p.kind = Config.kindData ∧ p.id = 0#8 then .ctrl0 p.ack p.payload
  else if p.kind = Config.kindData then .data p.ack p.id p.payload
  else if p.kind = Config.kindHandshake then .handshake p.ack p.id p.payload
  else if p.kind = Config.kindHandshakeAck then .handshakeAck p.ack p.id p.payload
  else .unknown p.kind p.ack p.id p.payload

/-- Why bytes are no instruction. -/
inductive Reject where
  /-- A command transaction with no byte in it. -/
  | commandEmpty
  /-- An operation code not in the table of R96. -/
  | badOperation (code : Byte)
  /-- Fewer operand bytes than the code's operands need. -/
  | operandsMissing
  /-- Bytes after the code's operands. -/
  | operandsLeftOver
  /-- A slice VERIFY rejects, with its cause (R111). -/
  | badFrame (c : Cause)
deriving DecidableEq, Repr

/-- A received frame as an instruction: VERIFY, then its form (R90, R113). -/
def decodeFrame (s : List Byte) : Except Reject Instr :=
  match verifyFrame s with
  | .ok => .ok (formOf (packetFields s))
  | .bad c => .error (.badFrame c)

/-- The code of each operation (R96). -/
def opByte : OpCode → Byte
  | .reset => 0x01#8
  | .xorsum => 0x10#8
  | .verify => 0x11#8
  | .encode => 0x12#8
  | .decode => 0x13#8
  | .rxPush => 0x20#8
  | .rxFlush => 0x21#8
  | .enqMsg => 0x30#8
  | .enqHb => 0x31#8
  | .setHsack => 0x32#8
  | .setAck => 0x33#8
  | .ackRx => 0x34#8
  | .tick => 0x35#8
  | .clear => 0x36#8

/-- The rows of R96. -/
def opCodes : List OpCode :=
  [.reset, .xorsum, .verify, .encode, .decode, .rxPush, .rxFlush,
   .enqMsg, .enqHb, .setHsack, .setAck, .ackRx, .tick, .clear]

/-- The operation a code byte stands for, if any (R96). -/
def opOfByte (c : Byte) : Option OpCode := opCodes.find? (fun o => opByte o == c)

/-- A byte operand (R96): one byte, and the bytes after it. -/
def byteOperand : List Byte → Option (Byte × List Byte)
  | [] => none
  | b :: rest => some (b, rest)

/-- A byte-sequence operand (R96): a 16-bit big-endian count and that many bytes, and the bytes after them. -/
def seqOperand : List Byte → Option (List Byte × List Byte)
  | h :: l :: rest =>
    if rest.length < be16 h l then none else some (rest.take (be16 h l), rest.drop (be16 h l))
  | _ => none

/-- The operands of ENCODE (R96): kind, ack, id, one byte each, then the payload. -/
def encodeOperands : List Byte → Option (Instr × List Byte)
  | kind :: ack :: id :: rest => (seqOperand rest).map fun r => (.encode kind ack id r.1, r.2)
  | _ => none

/-- The operands an operation takes (R96), and the bytes after them. -/
def operandsOf (o : OpCode) (bytes : List Byte) : Option (Instr × List Byte) :=
  match o with
  | .reset => some (.reset, bytes)
  | .xorsum => (seqOperand bytes).map fun r => (.xorsum r.1, r.2)
  | .verify => (seqOperand bytes).map fun r => (.verify r.1, r.2)
  | .encode => encodeOperands bytes
  | .decode => (seqOperand bytes).map fun r => (.decode r.1, r.2)
  | .rxPush => (seqOperand bytes).map fun r => (.rxPush r.1, r.2)
  | .rxFlush => some (.rxFlush, bytes)
  | .enqMsg => (seqOperand bytes).map fun r => (.enqMsg r.1, r.2)
  | .enqHb => some (.enqHb, bytes)
  | .setHsack => some (.setHsack, bytes)
  | .setAck => (byteOperand bytes).map fun r => (.setAck r.1, r.2)
  | .ackRx => (byteOperand bytes).map fun r => (.ackRx r.1, r.2)
  | .tick => some (.tick, bytes)
  | .clear => some (.clear, bytes)

/-- An operation at the front of some bytes, and the bytes after it (R96). -/
def decodeOp : List Byte → Except Reject (Instr × List Byte)
  | [] => .error .commandEmpty
  | c :: rest =>
    match opOfByte c with
    | none => .error (.badOperation c)
    | some o =>
      match operandsOf o rest with
      | none => .error .operandsMissing
      | some r => .ok r

/-- One command transaction (R96): exactly one operation and its operands. -/
def decodeCommand (bytes : List Byte) : Except Reject Instr :=
  match decodeOp bytes with
  | .error r => .error r
  | .ok (i, []) => .ok i
  | .ok (_, _ :: _) => .error .operandsLeftOver

/-! The encoders. -/

/-- The frame of R81 with payload `p`, as R112's pseudocode lays it out; the length test is `encodeFrame`'s. -/
def buildFrame (kind ack id : Byte) (p : List Byte) : List Byte :=
  let hdr := [Config.sync0, Config.sync1, kind, ack, id, hi8 p.length, lo8 p.length]
  hdr ++ p ++ [xorAll (hdr.drop 2 ++ p)] ++ [Config.trailer0, Config.trailer1]

/-- ENCODE's frame (R112); `none` where the payload is over 1014 bytes, the fault. -/
def encodeFrame (kind ack id : Byte) (p : List Byte) : Option (List Byte) :=
  if p.length > Config.maxPayload then none else some (buildFrame kind ack id p)

/-- A byte-sequence operand's bytes (R96). -/
def seqBytes (s : List Byte) : List Byte := hi8 s.length :: lo8 s.length :: s

/-- The bytes of an instruction: a frame for a form or an emitted frame (R81, R91), a command for an operation (R96);
an arm has no code of its own (R97). -/
def encode : Instr → Option (List Byte)
  | .ctrl0 ack payload => encodeFrame Config.kindData ack 0#8 payload
  | .data ack id payload => encodeFrame Config.kindData ack id payload
  | .handshake ack id payload => encodeFrame Config.kindHandshake ack id payload
  | .handshakeAck ack id payload => encodeFrame Config.kindHandshakeAck ack id payload
  | .unknown kind ack id payload => encodeFrame kind ack id payload
  | .txData ack id payload => encodeFrame Config.kindData ack id payload
  | .txHeartbeat ack => encodeFrame Config.kindData ack 0#8 []
  | .txBareAck ack => encodeFrame Config.kindData ack 0#8 []
  | .txHandshakeAck => encodeFrame Config.kindHandshakeAck 0#8 0#8 []
  | .txHandshake => encodeFrame Config.kindHandshake 0#8 0#8 []
  | .reset => some [opByte .reset]
  | .xorsum s => some (opByte .xorsum :: seqBytes s)
  | .verify s => some (opByte .verify :: seqBytes s)
  | .encode kind ack id payload => some (opByte .encode :: kind :: ack :: id :: seqBytes payload)
  | .decode s => some (opByte .decode :: seqBytes s)
  | .rxPush chunk => some (opByte .rxPush :: seqBytes chunk)
  | .rxFlush => some [opByte .rxFlush]
  | .enqMsg payload => some (opByte .enqMsg :: seqBytes payload)
  | .enqHb => some [opByte .enqHb]
  | .setHsack => some [opByte .setHsack]
  | .setAck i => some [opByte .setAck, i]
  | .ackRx a => some [opByte .ackRx, a]
  | .tick => some [opByte .tick]
  | .clear => some [opByte .clear]
  | .rsmEnd => none
  | .rsmSkip => none
  | .rsmDiscard => none
  | .rsmWait => none
  | .rsmExtract => none
  | .tHsack => none
  | .tCollapse => none
  | .tHb => none
  | .tMsg => none
  | .tExhausted => none
  | .tBareack => none
  | .tIdle => none

/-- The header word `H` of a frame (R82): sync, kind, ack, id and length, most significant byte first. -/
def headerWord (f : List Byte) : HeaderWord :=
  byteAt f 0 ++ byteAt f 1 ++ byteAt f 2 ++ byteAt f 3 ++ byteAt f 4 ++ byteAt f 5 ++ byteAt f 6

/-! The opcode table's words (log entry 9). -/

/-- Byte `k` of a 56-bit header word, byte 0 the most significant (R82). -/
def headerByte (w k : Nat) : Byte := BitVec.ofNat 8 (w / 2 ^ (48 - 8 * k))

/-- The frame a header word begins: a payload of zeros of the declared length, then the checksum and trailer that R81
fixes; `none` where the word has no sync marker or an illegal length (R93). -/
def tableFrame (w : Nat) : Option (List Byte) :=
  let len := be16 (headerByte w 5) (headerByte w 6)
  if headerByte w 0 = Config.sync0 ∧ headerByte w 1 = Config.sync1 ∧ len ≤ Config.maxPayload then
    some (buildFrame (headerByte w 2) (headerByte w 3) (headerByte w 4) (List.replicate len 0#8))
  else none

/-- The bytes of a command word, the first byte its least significant eight bits. -/
def wordBytes : Nat → Nat → List Byte
  | 0, _ => []
  | k + 1, w => BitVec.ofNat 8 w :: wordBytes k (w / 256)

/-- How many zero operand bytes may follow a command word: ENCODE's five. -/
def tablePad : Nat := 5

/-- The instruction of a command word whose operand bytes above it are zero. -/
def tableCommand (nbits w : Nat) : Option Instr :=
  match decodeOp (wordBytes ((nbits + 7) / 8) w ++ List.replicate tablePad 0#8) with
  | .ok (i, rest) => if rest.length ≤ tablePad then some i else none
  | .error _ => none

/-- The instruction the decoders read from a word of the opcode table: 56 bits are a header word (R82), anything
shorter a command (R96). An arm has no code, so no word decodes to one (R97). -/
def decodeTableWord (nbits w : Nat) : Option Instr :=
  if nbits = 56 then
    match tableFrame w with
    | none => none
    | some f =>
      match decodeFrame f with
      | .ok i => some i
      | .error _ => none
  else tableCommand nbits w

end Sys2Proof
end

