-- ==== Sys2Proof/Machine/State.lean ====
section
/-! DEFINITION. The machine's state as plain data. `Block` is the whole architectural state of the block, the tuple of
10_state.md R20 and nothing else (R30). `HostState` is the state of the host agent, which is separate from the block
(42_connection_host.md R150). `Params`, `Input` and `Out` are the model's own: the arguments of the model, what the
environment presents, and what the ports carried out in the last step (log entries 2, 3, 4). -/

namespace Sys2Proof.Machine

/-- A queue entry (R24). -/
inductive Entry where
  /-- `HB`, a heartbeat. -/
  | hb
  /-- `MSG(payload, id, txc)`, an application message. -/
  | msg (payload : List Byte) (id : Byte) (txc : Nat)
deriving DecidableEq, Repr

/-- The state tuple of R20. -/
structure Block where
  /-- `RB`, the residual buffer (R22). -/
  rb : List Byte
  /-- `Q`, the Outbound Queue, the head first (R23). -/
  q : List Entry
  /-- `NID`, the next id to assign (R25). -/
  nid : Byte
  /-- `PACK`, the Pending Ack, 0 for none (R26). -/
  pack : Byte
  /-- `PHS`, the Pending Handshake-Confirm (R27). -/
  phs : Bool
  /-- `FAULT`, the sticky fault bit (set where this is `some`) with its cause (R28). -/
  fault : Option Cause
deriving DecidableEq, Repr

/-- The values after RESET (R34, R260). -/
def Block.reset : Block where
  rb := []
  q := []
  nid := 1#8
  pack := 0#8
  phs := false
  fault := none

/-- The connection states (R151), modes of the host and not of the block (R233). -/
inductive Conn where
  | disconnected
  | awaitingHandshake
  | connected
deriving DecidableEq, Repr

/-- What the host owns (R150). Times are milliseconds of the host's clock. -/
structure HostState where
  conn : Conn
  /-- The last-accepted id (R156). -/
  lastId : Option Byte
  /-- The host's clock. -/
  now : Nat
  /-- The liveness timestamp (R161). -/
  lastRx : Nat
  /-- The liveness deadline (R155, R161); infinite where the check is disabled. -/
  deadline : Limit
  /-- The time of the last accepted handshake (R155). -/
  lastHs : Option Nat
  /-- The send timer runs (R166). -/
  sendTimer : Bool
  /-- The heartbeat timer runs (R168). -/
  hbTimer : Bool
  /-- The connection has reached Connected (R162). -/
  everConnected : Bool
  /-- Packets presented to the host and not yet acted on, oldest first (R52, R153). -/
  todo : List Packet
  /-- The id of a RETRY_EXHAUSTED event the host has taken and not yet answered (R165, R226; log entry 25). -/
  exhausted : Option Byte
deriving DecidableEq, Repr

/-- The host before it does anything. DESIGN CHOICE (log entry 12): the spec states no initial host state beyond the
Disconnected of its examples. -/
def HostState.reset : HostState where
  conn := .disconnected
  lastId := none
  now := 0
  lastRx := 0
  deadline := .inf
  lastHs := none
  sendTimer := false
  hbTimer := false
  everConnected := false
  todo := []
  exhausted := none

/-- Why a connection ends (R161, R162, R165, R167). -/
inductive Why where
  | request
  | ioError
  | liveness
  | exhausted
deriving DecidableEq, Repr

/-- The host's notifications to the application (R169). -/
inductive Note where
  | connectStarted
  | connectSucceeded (resumed : Bool)
  | connectFailed (why : Why)
  | disconnected
  | messageReceived (payload : List Byte)
  | isConnected (answer : Bool)
deriving DecidableEq, Repr

/-- The events of R226. -/
inductive Event where
  | retryExhausted (id : Byte)
  | faulted (cause : Cause)
deriving DecidableEq, Repr

/-- What an operation returns on the port it came in on (R53, R96). -/
inductive Result where
  /-- Completion of an operation whose result is "none". -/
  | done
  /-- XORSUM's byte. -/
  | byte (b : Byte)
  /-- VERIFY's verdict. -/
  | verdict (v : Verdict)
  /-- ENCODE's frame. -/
  | frame (f : List Byte)
  /-- DECODE's packet, or `none` for `ChecksumInvalid`. -/
  | decoded (p : Option Packet)
  /-- RX_PUSH's list of packets. -/
  | packets (ps : List Packet)
  /-- `Ok` of ENQ_MSG and ENQ_HB. -/
  | ok
  | popped
  | ignored
  /-- The name of the arm a TICK took. -/
  | arm (a : TickArm)
  /-- `Rejected(cause)` (R220 c, d). -/
  | rejected (c : Cause)
  /-- The end of an operation with a fault (R220 e). -/
  | raised (c : Cause)
deriving DecidableEq, Repr

/-- What the ports carried out in the last step: results, TX frames, RX packets, events, notifications, each oldest
first. Nothing reads it (log entry 2). -/
structure Out where
  ret : List Result := []
  tx : List (List Byte) := []
  rx : List Packet := []
  evt : List Event := []
  note : List Note := []
deriving DecidableEq, Repr

/-- Application calls and other events that concern the host (R161-R170). -/
inductive HostEvent where
  /-- `connect()`. -/
  | connect
  /-- `disconnect()`. -/
  | disconnect
  /-- A read or write error of the byte stream (R167; log entry 19). -/
  | ioError
  /-- The host answers the RETRY_EXHAUSTED event it has taken (R165). -/
  | answerExhausted
  /-- `isConnected()`. -/
  | isConnected
  /-- Time passes; the liveness deadline is tested. -/
  | elapse (ms : Nat)
deriving DecidableEq, Repr

/-- What the environment presents (R50, R53). -/
inductive Input where
  /-- One command transaction: an operation code and its operands (R96). -/
  | command (bytes : List Byte)
  /-- The bytes of one read of the link (R50). -/
  | chunk (bytes : List Byte)
  /-- The send timer expires (R166). -/
  | sendTimer
  /-- The heartbeat timer expires (R168). -/
  | hbTimer
  /-- The host acts on the oldest presented packet (R153). -/
  | take
  /-- `sendMessage(bytes)` (R169), at any time (log entry 22). -/
  | sendMessage (bytes : List Byte)
  /-- The host sends a handshake again (R170), at any time (log entry 23). -/
  | sendHandshake
  | host (e : HostEvent)
deriving DecidableEq, Repr

/-- The whole machine. -/
structure State where
  /-- The parameters, which no step writes (log entry 4). -/
  par : Params
  /-- The block's architectural state (R20). -/
  blk : Block
  /-- The host agent's state (R150). -/
  host : HostState
  /-- Inputs not yet served, the next one first (log entry 3). -/
  inbox : List Input
  /-- What the last step's operation put on the ports (log entry 2). -/
  out : Out
deriving DecidableEq, Repr

/-- The state after RESET (R34), with the host at rest, nothing presented and default parameters. -/
def State.reset : State where
  par := Params.default
  blk := Block.reset
  host := HostState.reset
  inbox := []
  out := {}

/-- Why the machine stops. Both are raised by `step` alone, on a command transaction that is no instruction: the code is in
the table of R96 but the operand bytes do not fit it, or there is no code. The spec gives such bytes no effect
(log entry 7). Safe: the model stops where hardware may go on. -/
inductive Fault where
  /-- No byte at all. Raised by `step`. Safe. -/
  | commandEmpty
  /-- Too few operand bytes. Raised by `step`. Safe. -/
  | commandTruncated
  /-- Bytes left over after the operands. Raised by `step`. Safe. -/
  | commandOverlong
deriving DecidableEq, Repr

/-- Why an instruction has no meaning. -/
inductive Refusal where
  /-- Raised by an arm of `exec` for an instruction not modelled yet. Safe: the model stops. -/
  | notModelled (mnemonic : String)
  /-- Raised by the twelve arms' meanings where the arm's selector does not choose it in this state: an arm has no code
  and is never presented, so no hardware does anything there (R36, R97; log entry 5). Safe: the model stops. -/
  | armNotSelected
deriving DecidableEq, Repr

end Sys2Proof.Machine
end

