-- ==== Sys2Proof/Machine/Operands.lean ====
section
/-! DEFINITION. The operands a meaning reads: the head of the queue and its fields (10_state.md R24), and the
parameters' bounds (00_scope.md R9). The bytes of a frame and the operand forms of the command port are read in
Decode.lean (R86, R96). -/

namespace Sys2Proof.Machine

/-- `id(e)`: 0 for a heartbeat (R24). -/
def entryId : Entry → Byte
  | .hb => 0#8
  | .msg _ id _ => id

/-- `txc` of a message; a heartbeat has none and counts as 0 (R24). -/
def entryTxc : Entry → Nat
  | .hb => 0
  | .msg _ _ txc => txc

/-- The payload an entry sends: a heartbeat's is empty (R24). -/
def entryPayload : Entry → List Byte
  | .hb => []
  | .msg payload _ _ => payload

/-- The entry is an application message. -/
def entryIsMsg : Entry → Bool
  | .hb => false
  | .msg _ _ _ => true

/-- A length equals a bound (R181, R183: the test is equality). -/
def limitIs (l : Limit) (n : Nat) : Bool :=
  match l with
  | .fin m => n == m
  | .inf => false

/-- A length is over a bound (R130). -/
def limitBelow (l : Limit) (n : Nat) : Bool :=
  match l with
  | .fin m => decide (m < n)
  | .inf => false

/-- A transmission count has reached one more than a bound (R197): `n ≥ 1 + RETRY_MAX`. -/
def limitSpent (l : Limit) (n : Nat) : Bool :=
  match l with
  | .fin m => decide (1 + m ≤ n)
  | .inf => false

/-- A bound moved by a number of milliseconds. -/
def limitAdd (l : Limit) (n : Nat) : Limit :=
  match l with
  | .fin m => .fin (m + n)
  | .inf => .inf

end Sys2Proof.Machine
end

