-- ==== Sys2Proof/Machine/Flags.lean ====
section
/-! DEFINITION. The conditions of 10_state.md R29, computed where they are used and never stored; the two selectors and
the arms they choose (30_encoding.md R97); the numeric codes of causes and events (60_exceptions.md R222). -/

namespace Sys2Proof.Machine

/-- "ack pending" (R29). -/
def ackPending (b : Block) : Bool := b.pack != 0#8

/-- "faulted" (R29). -/
def faulted (b : Block) : Bool := b.fault.isSome

/-- "queue empty" (R29). -/
def queueEmpty (b : Block) : Bool := b.q.isEmpty

/-- "head is heartbeat" (R29). -/
def headIsHb (b : Block) : Bool :=
  match b.q with
  | .hb :: _ => true
  | _ => false

/-- The head is an application message (`m` of R97). -/
def headIsMsg (b : Block) : Bool :=
  match b.q with
  | .msg _ _ _ :: _ => true
  | _ => false

/-- "head in flight" (R29). -/
def headInFlight (b : Block) : Bool :=
  match b.q with
  | e :: _ => entryId e != 0#8
  | [] => false

/-- "retries exhausted" (R29, R197). -/
def retriesExhausted (par : Params) (b : Block) : Bool :=
  match b.q with
  | .msg _ _ txc :: _ => limitSpent par.retryMax txc
  | _ => false

/-- The reassembler selector (R97) of a buffer. -/
def rsmSel (rb : List Byte) : RsmSel where
  g := decide (Config.hdrLen ≤ rb.length)
  s := syncAtFront rb
  l := decide (declaredLen rb ≤ Config.maxPayload)
  e := decide (frameLen rb ≤ rb.length)

/-- The arm a reassembler selector chooses: `0sle`, `10le`, `110e`, `1110`, `1111` (R97, R131). -/
def rsmArmOf (r : RsmSel) : RsmArm :=
  match r.g, r.s, r.l, r.e with
  | false, _, _, _ => .finish
  | true, false, _, _ => .skip
  | true, true, false, _ => .discard
  | true, true, true, false => .wait
  | true, true, true, true => .extract

/-- The arm the next pass of RX_PUSH's loop takes. -/
def rsmArm (rb : List Byte) : RsmArm := rsmArmOf (rsmSel rb)

/-- The tick selector (R97) of a block. -/
def tickSel (par : Params) (b : Block) : TickSel where
  p := b.phs
  m := headIsMsg b
  h := headIsHb b
  x := retriesExhausted par b
  a := ackPending b

/-- The arm a tick selector chooses: `1mhxa`, `001xa`, `0100a`, `0101a`, `000x1`, `000x0` (R97). A head is not both a
message and a heartbeat, so the pattern with both bits set does not occur. -/
def tickArmOf (t : TickSel) : TickArm :=
  match t.p, t.m, t.h, t.x, t.a with
  | true, _, _, _, _ => .hsack
  | false, _, true, _, _ => .hb
  | false, true, false, false, _ => .msg
  | false, true, false, true, _ => .exhausted
  | false, false, false, _, true => .bareack
  | false, false, false, _, false => .idle

/-- T_COLLAPSE's guard (R97, R192): PHS = 0, more than one entry queued, and the head is a heartbeat. -/
def collapsible (b : Block) : Bool := !b.phs && decide (1 < b.q.length) && headIsHb b

/-- What a TICK does next in a block: the collapse pre-step while its guard holds, else the arm the selector chooses. -/
def nextTickArm (par : Params) (b : Block) : TickArm :=
  if collapsible b then .collapse else tickArmOf (tickSel par b)

/-- The code of a cause (R222). -/
def causeCode : Cause → Byte
  | .payloadTooLong => 0x01#8
  | .badLength => 0x10#8
  | .badSync => 0x11#8
  | .badTrailer => 0x12#8
  | .badChecksum => 0x13#8
  | .garbageByte => 0x18#8
  | .oversizeLength => 0x19#8
  | .tooLong => 0x20#8
  | .queueFull => 0x21#8
  | .chunkTooLong => 0x22#8
  | .badOperation => 0x23#8
  | .faulted => 0x24#8

/-- The code of an event (R222). -/
def eventCode : Event → Byte
  | .retryExhausted _ => 0x30#8
  | .faulted _ => 0x31#8

/-- The FAULT element as software would number it: 0 and no cause, or 1 and the cause's code (R28, R222). DESIGN CHOICE (log
entry 21; unsafe for a claim that rests on the number): 'cause none' (R34) is numbered 0x00, to which R222 gives no
code. -/
def faultRecord (b : Block) : BitVec 1 × Byte :=
  match b.fault with
  | none => (0#1, 0#8)
  | some c => (1#1, causeCode c)

end Sys2Proof.Machine
end

