-- ==== Sys2Proof/Machine/Ops.lean ====
section
/-! DEFINITION. The named operations every meaning is built from: the primitives on RB (20_memory.md R56) and on Q
(R57), taking the one fault (60_exceptions.md R221), the refusal while faulted (R225), transmitting a frame (R51), and
issuing a block operation from the whole machine. -/

namespace Sys2Proof.Machine

/-! RB (R56). -/

/-- "append". -/
def rbAppend (rb chunk : List Byte) : List Byte := rb ++ chunk

/-- "drop one". -/
def rbDropOne (rb : List Byte) : List Byte := rb.drop 1

/-- "extract n": the candidate frame. -/
def rbFront (rb : List Byte) (n : Nat) : List Byte := rb.take n

/-- "extract n": what stays. -/
def rbAfter (rb : List Byte) (n : Nat) : List Byte := rb.drop n

/-! Q (R57). -/

/-- "push at the tail". -/
def qPush (q : List Entry) (e : Entry) : List Entry := q ++ [e]

/-- "pop the head". -/
def qPop (q : List Entry) : List Entry := q.drop 1

/-- "update the head in place": the id and the transmission count of a message. -/
def qUpdateHead (q : List Entry) (id : Byte) (txc : Nat) : List Entry :=
  match q with
  | .msg payload _ _ :: rest => .msg payload id txc :: rest
  | q => q

/-! Outputs. -/

/-- One operation's results after another's. -/
def outAppend (a b : Out) : Out where
  ret := a.ret ++ b.ret
  tx := a.tx ++ b.tx
  rx := a.rx ++ b.rx
  evt := a.evt ++ b.evt
  note := a.note ++ b.note

/-- An operation that only returns a result. -/
def answer (r : Result) : Out := { ret := [r] }

/-- What an operation of the block is: the next block, and what it puts on the ports. -/
abbrev BlockOp := Params → Block → Block × Out

/-- Taking the fault (R14, R221): the block as it was before the operation, except that FAULT is set with its cause;
the event FAULTED is presented and no frame is produced. -/
def raiseFault (c : Cause) (before : Block) : Block × Out :=
  ({ before with fault := some c }, { ret := [.raised c], evt := [.faulted c] })

/-- The refusal while faulted (R225), tested before everything else (R228 e); the one way back is RESET (R230). -/
def gated (op : BlockOp) : BlockOp := fun par b =>
  if faulted b then (b, answer (.rejected .faulted)) else op par b

/-- `emit tx(ENCODE(…))` (R51, R112): the frame goes out whole, the operation returns `r` and leaves `after`; where ENCODE
faults, the block is `before` with the fault (R14). -/
def transmit (before after : Block) (r : Result) (kind ack id : Byte) (p : List Byte) : Block × Out :=
  match encodeFrame kind ack id p with
  | none => raiseFault .payloadTooLong before
  | some f => (after, { ret := [r], tx := [f] })

/-- The ports carry nothing yet in this step. -/
def quiet (s : State) : State := { s with out := {} }

/-- The host sees packets presented on the RX port, in order (R52, R153). -/
def present (h : HostState) (ps : List Packet) : HostState := { h with todo := h.todo ++ ps }

/-- What the host takes from one event (R165, R226): of an exhausted message, its id. DESIGN CHOICE (log entry 26): of
the fault it keeps no note, because the model's host never misses that event and so FAULT itself stands for the note. -/
def hearOne (h : HostState) : Event → HostState
  | .retryExhausted id => { h with exhausted := some id }
  | .faulted _ => h

/-- The host hears the events presented on the event port, in order (R226). -/
def hear (h : HostState) (es : List Event) : HostState := es.foldl hearOne h

/-- One operation of the block, run alone from start to end (R60): the block's next state, its outputs after those already
on the ports, and its packets and events presented to the host. -/
def issue (op : BlockOp) (s : State) : State :=
  { s with
    blk := (op s.par s.blk).1
    host := hear (present s.host (op s.par s.blk).2.rx) (op s.par s.blk).2.evt
    out := outAppend s.out (op s.par s.blk).2 }

/-- An operation of the block as a whole step. -/
def perform (op : BlockOp) (s : State) : Host.Outcome State Fault Refusal := .next (issue op (quiet s))

end Sys2Proof.Machine
end

