-- ==== Sys2Proof/Machine/Codec.lean ====
section
/-! DEFINITION. The Packet Codec (40_codec.md): XORSUM, VERIFY, ENCODE, DECODE. The codec has no state of its own; the
functions on byte sequences are Decode.lean's. -/

namespace Sys2Proof.Machine

/-- XORSUM(s) (R110). -/
def opXorsum (l : List Byte) : BlockOp := gated fun _ b => (b, answer (.byte (xorAll l)))

/-- VERIFY(s) (R111). -/
def opVerify (l : List Byte) : BlockOp := gated fun _ b => (b, answer (.verdict (verifyFrame l)))

/-- ENCODE(kind, ack, id, payload) (R112): the frame, or the fault. -/
def opEncode (kind ack id : Byte) (p : List Byte) : BlockOp := gated fun _ b =>
  match encodeFrame kind ack id p with
  | none => raiseFault .payloadTooLong b
  | some f => (b, answer (.frame f))

/-- DECODE(s) (R113). -/
def opDecode (l : List Byte) : BlockOp := gated fun _ b => (b, answer (.decoded (decodePacket l)))

/-- XORSUM. -/
def execXorsum (l : List Byte) (s : State) : Host.Outcome State Fault Refusal := perform (opXorsum l) s

/-- VERIFY. -/
def execVerify (l : List Byte) (s : State) : Host.Outcome State Fault Refusal := perform (opVerify l) s

/-- ENCODE. -/
def execEncode (kind ack id : Byte) (p : List Byte) (s : State) : Host.Outcome State Fault Refusal :=
  perform (opEncode kind ack id p) s

/-- DECODE. -/
def execDecode (l : List Byte) (s : State) : Host.Outcome State Fault Refusal := perform (opDecode l) s

end Sys2Proof.Machine
end

