-- ==== Sys2Proof/Machine/Emit.lean ====
section
/-! DEFINITION. The emitted frames (30_encoding.md R91): each is `emit tx(ENCODE(…))` of the fields its row names. The tick
arms emit the first four with the state changes their own rules add (Scheduler.lean); the fifth is built by ENCODE and
written by the host (42_connection_host.md R170). Here a frame's emission is the instruction (log entry 6). -/

namespace Sys2Proof.Machine

/-- ENCODE of the fields and its frame on the TX stream (R51, R99). -/
def opEmit (kind ack id : Byte) (p : List Byte) : BlockOp := gated fun _ b =>
  transmit b b (.frame (buildFrame kind ack id p)) kind ack id p

/-- DATA(a, i, p) (R91, R194). -/
def execTxData (ack id : Byte) (p : List Byte) (s : State) : Host.Outcome State Fault Refusal :=
  perform (opEmit Config.kindData ack id p) s

/-- HEARTBEAT(a) (R91, R193). -/
def execTxHeartbeat (ack : Byte) (s : State) : Host.Outcome State Fault Refusal :=
  perform (opEmit Config.kindData ack 0#8 []) s

/-- BAREACK(a) (R91, R198): the same bytes as HEARTBEAT(a). -/
def execTxBareAck (ack : Byte) (s : State) : Host.Outcome State Fault Refusal :=
  perform (opEmit Config.kindData ack 0#8 []) s

/-- HANDSHAKE_ACK, emitted (R91, R191): `ack = 0`, `id = 0`, no payload. -/
def execTxHandshakeAck (s : State) : Host.Outcome State Fault Refusal :=
  perform (opEmit Config.kindHandshakeAck 0#8 0#8 []) s

/-- HANDSHAKE, emitted (R91, R170): the host has ENCODE build it and writes it to the link itself. -/
def execTxHandshake (s : State) : Host.Outcome State Fault Refusal :=
  perform (opEmit Config.kindHandshake 0#8 0#8 []) s

end Sys2Proof.Machine
end

