-- ==== Sys2Proof/Machine/Reassembler.lean ====
section
/-! DEFINITION. The Stream Reassembler (41_reassembler.md): RX_PUSH with its five arms, RX_FLUSH. -/

namespace Sys2Proof.Machine

/-- What one arm leaves of RB, and the packets it presents (R132-R137). -/
abbrev RsmStep := List Byte × List Packet

/-- Arm RSM_END (R136): nothing is examined. -/
def rsmEnd (rb : List Byte) : RsmStep := (rb, [])

/-- Arm RSM_SKIP (R132): exactly one byte is dropped. -/
def rsmSkip (rb : List Byte) : RsmStep := (rbDropOne rb, [])

/-- Arm RSM_DISCARD (R133): everything held is discarded. -/
def rsmDiscard (_rb : List Byte) : RsmStep := ([], [])

/-- Arm RSM_WAIT (R134): nothing is consumed. -/
def rsmWait (rb : List Byte) : RsmStep := (rb, [])

/-- Arm RSM_EXTRACT (R135): the candidate frame is cut out by its length field and decoded at once; a packet is presented, a
frame DECODE rejects is dropped (R137). -/
def rsmExtract (rb : List Byte) : RsmStep :=
  (rbAfter rb (frameLen rb), (decodePacket (rbFront rb (frameLen rb))).toList)

/-- The effect of an arm on RB. -/
def rsmRun (rb : List Byte) : RsmArm → RsmStep
  | .finish => rsmEnd rb
  | .skip => rsmSkip rb
  | .discard => rsmDiscard rb
  | .wait => rsmWait rb
  | .extract => rsmExtract rb

/-- The loop ends after this arm (R36 a). -/
def rsmEnds : RsmArm → Bool
  | .finish => true
  | .wait => true
  | _ => false

/-- The loop of R130. Every pass but the last makes RB strictly shorter, so the length of RB bounds the passes; with no
passes left RB is empty, which is arm RSM_END. -/
def rsmLoop : Nat → List Byte → RsmStep
  | 0, rb => (rb, [])
  | n + 1, rb =>
    let r := rsmRun rb (rsmArm rb)
    if rsmEnds (rsmArm rb) then r
    else
      let t := rsmLoop n r.1
      (t.1, r.2 ++ t.2)

/-- The loop run to its end. -/
def reassemble (rb : List Byte) : RsmStep := rsmLoop rb.length rb

/-- RX_PUSH(chunk) (R130). -/
def opRxPush (chunk : List Byte) : BlockOp := gated fun par b =>
  if limitBelow par.chunkMax chunk.length then (b, answer (.rejected .chunkTooLong))
  else
    let r := reassemble (rbAppend b.rb chunk)
    ({ b with rb := r.1 }, { ret := [.packets r.2], rx := r.2 })

/-- RX_FLUSH (R138). -/
def opRxFlush : BlockOp := gated fun _ b => ({ b with rb := [] }, answer .done)

/-- RX_PUSH. -/
def execRxPush (chunk : List Byte) (s : State) : Host.Outcome State Fault Refusal := perform (opRxPush chunk) s

/-- RX_FLUSH. -/
def execRxFlush (s : State) : Host.Outcome State Fault Refusal := perform opRxFlush s

/-- One arm's effect as a block operation. -/
def opRsm (run : List Byte → RsmStep) : BlockOp := gated fun _ b =>
  ({ b with rb := (run b.rb).1 }, { rx := (run b.rb).2 })

/-- One pass of the loop as an instruction: the arm where the selector chooses it; an arm not chosen is not taken (R36,
log entry 5). -/
def execRsm (a : RsmArm) (run : List Byte → RsmStep) (s : State) : Host.Outcome State Fault Refusal :=
  if faulted s.blk || rsmArm s.blk.rb == a then perform (opRsm run) s
  else .refused .armNotSelected

/-- RSM_END. -/
def execRsmEnd (s : State) : Host.Outcome State Fault Refusal := execRsm .finish rsmEnd s

/-- RSM_SKIP. -/
def execRsmSkip (s : State) : Host.Outcome State Fault Refusal := execRsm .skip rsmSkip s

/-- RSM_DISCARD. -/
def execRsmDiscard (s : State) : Host.Outcome State Fault Refusal := execRsm .discard rsmDiscard s

/-- RSM_WAIT. -/
def execRsmWait (s : State) : Host.Outcome State Fault Refusal := execRsm .wait rsmWait s

/-- RSM_EXTRACT. -/
def execRsmExtract (s : State) : Host.Outcome State Fault Refusal := execRsm .extract rsmExtract s

end Sys2Proof.Machine
end

