-- ==== Sys2Proof/Machine/Scheduler.lean ====
section
/-! DEFINITION. The Retransmission Scheduler (43_scheduler.md): ENQ_MSG, ENQ_HB, SET_HSACK, SET_ACK, ACK_RX, CLEAR, TICK
and TICK's seven arms. -/

namespace Sys2Proof.Machine

/-- ENQ_MSG(payload) (R181): the size is tested before the capacity (R228 d). -/
def opEnqMsg (p : List Byte) : BlockOp := gated fun par b =>
  if p.length > Config.maxPayload then (b, answer (.rejected .tooLong))
  else if limitIs par.qdepth b.q.length then (b, answer (.rejected .queueFull))
  else ({ b with q := qPush b.q (.msg p 0#8 0) }, answer .ok)

/-- ENQ_HB (R183). -/
def opEnqHb : BlockOp := gated fun par b =>
  if limitIs par.qdepth b.q.length then (b, answer (.rejected .queueFull))
  else ({ b with q := qPush b.q .hb }, answer .ok)

/-- SET_HSACK (R184). -/
def opSetHsack : BlockOp := gated fun _ b => ({ b with phs := true }, answer .done)

/-- SET_ACK(i) (R185): overwrites; `i = 0` changes nothing. -/
def opSetAck (i : Byte) : BlockOp := gated fun _ b =>
  (if i = 0#8 then b else { b with pack := i }, answer .done)

/-- ACK_RX(a) (R186): only the head is compared. -/
def opAckRx (a : Byte) : BlockOp := gated fun _ b =>
  match b.q with
  | e :: _ =>
    if a ≠ 0#8 ∧ entryId e = a then ({ b with q := qPop b.q }, answer .popped) else (b, answer .ignored)
  | [] => (b, answer .ignored)

/-- CLEAR (R187): RB and FAULT are kept. -/
def opClear : BlockOp := gated fun _ b =>
  ({ b with q := [], pack := 0#8, phs := false, nid := 1#8 }, answer .done)

/-- The id after `nid` (R195, R202): after 255 comes 1. -/
def nextId (nid : Byte) : Byte := if nid = 255#8 then 1#8 else nid + 1#8

/-- T_COLLAPSE's loop (R192): while more than one entry is queued and the head is a heartbeat, drop it. -/
def collapse : List Entry → List Entry
  | .hb :: e :: rest => collapse (e :: rest)
  | q => q

/-! The arms. Each is told the block before the tick (`before`), to which a fault of ENCODE would return (R14), and the
block it acts on. -/

/-- Arm T_HSACK (R191): PHS is cleared; the frame carries no ack. -/
def tHsack (before b : Block) : Block × Out :=
  transmit before { b with phs := false } (.arm .hsack) Config.kindHandshakeAck 0#8 0#8 []

/-- Arm T_COLLAPSE (R192), one pass: the head heartbeat is dropped and nothing is emitted. -/
def tCollapse (_before b : Block) : Block × Out := ({ b with q := qPop b.q }, {})

/-- Arm T_HB (R193): the heartbeat carries the pending ack and is popped. -/
def tHb (before b : Block) : Block × Out :=
  transmit before { b with q := qPop b.q, pack := 0#8 } (.arm .hb) Config.kindData b.pack 0#8 []

/-- The id the head goes out with (R195): its own, or NID at its first transmission. -/
def headSendId (b : Block) (e : Entry) : Byte := if entryId e = 0#8 then b.nid else entryId e

/-- NID after the head is sent (R195). -/
def headNextNid (b : Block) (e : Entry) : Byte := if entryId e = 0#8 then nextId b.nid else b.nid

/-- Arm T_MSG (R194-R196): the id is assigned at the first transmission, the pending ack is merged, the count goes up and
the entry stays at the head. -/
def tMsg (before b : Block) : Block × Out :=
  match b.q with
  | e :: _ =>
    transmit before
      { b with
        q := qUpdateHead b.q (headSendId b e) (entryTxc e + 1)
        nid := headNextNid b e
        pack := 0#8 }
      (.arm .msg) Config.kindData b.pack (headSendId b e) (entryPayload e)
  | [] => (b, {})

/-- Arm T_EXHAUSTED (R197): the event alone; no state changes. -/
def tExhausted (_before b : Block) : Block × Out :=
  match b.q with
  | e :: _ => (b, { ret := [.arm .exhausted], evt := [.retryExhausted (entryId e)] })
  | [] => (b, {})

/-- Arm T_BAREACK (R198). -/
def tBareack (before b : Block) : Block × Out :=
  transmit before { b with pack := 0#8 } (.arm .bareack) Config.kindData b.pack 0#8 []

/-- Arm T_IDLE (R199). -/
def tIdle (_before b : Block) : Block × Out := (b, answer (.arm .idle))

/-- The effect of an arm. -/
def tickRun (before b : Block) : TickArm → Block × Out
  | .hsack => tHsack before b
  | .collapse => tCollapse before b
  | .hb => tHb before b
  | .msg => tMsg before b
  | .exhausted => tExhausted before b
  | .bareack => tBareack before b
  | .idle => tIdle before b

/-- The block in which TICK chooses its arm: collapsed, unless PHS = 1 (R190, R191). -/
def afterCollapse (b : Block) : Block := if b.phs then b else { b with q := collapse b.q }

/-- TICK (R190). -/
def opTick : BlockOp := gated fun par b =>
  tickRun b (afterCollapse b) (tickArmOf (tickSel par (afterCollapse b)))

/-- ENQ_MSG. -/
def execEnqMsg (p : List Byte) (s : State) : Host.Outcome State Fault Refusal := perform (opEnqMsg p) s

/-- ENQ_HB. -/
def execEnqHb (s : State) : Host.Outcome State Fault Refusal := perform opEnqHb s

/-- SET_HSACK. -/
def execSetHsack (s : State) : Host.Outcome State Fault Refusal := perform opSetHsack s

/-- SET_ACK. -/
def execSetAck (i : Byte) (s : State) : Host.Outcome State Fault Refusal := perform (opSetAck i) s

/-- ACK_RX. -/
def execAckRx (a : Byte) (s : State) : Host.Outcome State Fault Refusal := perform (opAckRx a) s

/-- TICK. -/
def execTick (s : State) : Host.Outcome State Fault Refusal := perform opTick s

/-- CLEAR. -/
def execClear (s : State) : Host.Outcome State Fault Refusal := perform opClear s

/-- One arm of TICK as an instruction: the arm where it is what a TICK does next in this block; an arm not chosen is not
taken (R36, log entry 5). -/
def execTickArm (a : TickArm) (run : Block → Block → Block × Out) (s : State) : Host.Outcome State Fault Refusal :=
  if faulted s.blk || nextTickArm s.par s.blk == a then perform (gated fun _ b => run b b) s
  else .refused .armNotSelected

/-- T_HSACK. -/
def execTHsack (s : State) : Host.Outcome State Fault Refusal := execTickArm .hsack tHsack s

/-- T_COLLAPSE. -/
def execTCollapse (s : State) : Host.Outcome State Fault Refusal := execTickArm .collapse tCollapse s

/-- T_HB. -/
def execTHb (s : State) : Host.Outcome State Fault Refusal := execTickArm .hb tHb s

/-- T_MSG. -/
def execTMsg (s : State) : Host.Outcome State Fault Refusal := execTickArm .msg tMsg s

/-- T_EXHAUSTED. -/
def execTExhausted (s : State) : Host.Outcome State Fault Refusal := execTickArm .exhausted tExhausted s

/-- T_BAREACK. -/
def execTBareack (s : State) : Host.Outcome State Fault Refusal := execTickArm .bareack tBareack s

/-- T_IDLE. -/
def execTIdle (s : State) : Host.Outcome State Fault Refusal := execTickArm .idle tIdle s

end Sys2Proof.Machine
end

