-- ==== Sys2Proof/Machine/Connection.lean ====
section
/-! DEFINITION. The host agent (42_connection_host.md): what it does for a received packet of each form (R153-R160), the
connection's beginning and end (R151, R152, R161-R163, R169), and the passing of its time (R161). The host acts on the
block only by issuing the block's operations (R150, R171); the rest is its own state. -/

namespace Sys2Proof.Machine

/-- A notification to the application (R169). -/
def notify (n : Note) (s : State) : State := { s with out := outAppend s.out { note := [n] } }

/-- The liveness timestamp is refreshed and the deadline follows it (R154 step 3, R161). -/
def hostRefresh (s : State) : State :=
  { s with host := { s.host with lastRx := s.host.now, deadline := limitAdd s.par.livenessMs s.host.now } }

/-- The liveness deadline is extended (R155). DESIGN CHOICE (log entry 11): the refreshed deadline is the one extended. -/
def hostExtend (s : State) : State :=
  { s with host := { s.host with deadline := limitAdd s.host.deadline s.par.livenessExt } }

/-- The state becomes Connected: both timers are restarted (R168) and the application is told (R155, R157, R159). -/
def becomeConnected (resumed : Bool) (s : State) : State :=
  notify (.connectSucceeded resumed)
    { s with host := { s.host with conn := .connected, sendTimer := true, hbTimer := true, everConnected := true } }

/-- What the host does where it acts on the block, and a step that does nothing where the block is faulted: "issue nothing
else until RESET, since everything else is refused" (R171). DESIGN CHOICE: the host's own part waits too (log entry 24), and
the host knows of the fault at once, which the model tests on FAULT itself although the host has no read port (R32, R226;
log entry 26). -/
def unlessFaulted (f : State → State) (s : State) : State := if faulted s.blk then quiet s else f (quiet s)

/-- The full state reset of R152: CLEAR for the state held in the block, which a faulted block is not asked for (R171; log
entries 24 and 26); the host clears its last-accepted id, its timers and the event it has not answered. -/
def fullReset (s : State) : State :=
  let t := if faulted s.blk then s else issue opClear s
  { t with host := { t.host with lastId := none, sendTimer := false, hbTimer := false, exhausted := none } }

/-- A handshake arrives faster than the minimum spacing (R155). DESIGN CHOICE (log entry 13): spacing is measured from the
last accepted handshake, and a gap of exactly the minimum is accepted. -/
def debounced (s : State) : Bool :=
  match s.host.lastHs with
  | some t => decide (s.host.now < t + s.par.handshakeSpacing)
  | none => false

/-- The `ack` field of a packet (R158): ACK_RX where it is nonzero. -/
def ackField (ack : Byte) (s : State) : State := if ack = 0#8 then s else issue (opAckRx ack) s

/-- An accepted handshake (R155, R154 steps 2 to 4). -/
def acceptHandshake (ack : Byte) (s : State) : State :=
  let s1 := if s.host.conn = .connected then fullReset s else s
  let s2 := issue opSetHsack s1
  let s3 := becomeConnected false { s2 with host := { s2.host with lastHs := some s2.host.now } }
  ackField ack (hostExtend (hostRefresh s3))

/-- HANDSHAKE (R155): a debounced one is ignored entirely. -/
def execHandshake (ack _id : Byte) (_payload : List Byte) (s : State) : Host.Outcome State Fault Refusal :=
  if debounced s then .next (quiet s) else .next (unlessFaulted (acceptHandshake ack) s)

/-- An accepted DATA packet (R156): the ack is always queued; a repeat of the last-accepted id is not delivered again. -/
def acceptData (ack id : Byte) (payload : List Byte) (s : State) : State :=
  let s1 := issue (opSetAck id) (ackField ack (hostRefresh s))
  if s1.host.lastId = some id then s1
  else notify (.messageReceived payload) { s1 with host := { s1.host with lastId := some id } }

/-- DATA (R156). -/
def execData (ack id : Byte) (payload : List Byte) (s : State) : Host.Outcome State Fault Refusal :=
  .next (unlessFaulted (acceptData ack id payload) s)

/-- An accepted CTRL0 packet (R157): a nonzero ack while not yet Connected resumes the connection. -/
def acceptCtrl0 (ack : Byte) (s : State) : State :=
  let s1 := ackField ack (hostRefresh s)
  if ack ≠ 0#8 ∧ s1.host.conn ≠ .connected then becomeConnected true s1 else s1

/-- CTRL0 (R157): the payload is delivered to nobody. -/
def execCtrl0 (ack : Byte) (_payload : List Byte) (s : State) : Host.Outcome State Fault Refusal :=
  .next (unlessFaulted (acceptCtrl0 ack) s)

/-- An accepted HANDSHAKE_ACK packet (R159): AwaitingHandshake becomes Connected; in another state only the refresh and the
ack. -/
def acceptHandshakeAck (ack : Byte) (s : State) : State :=
  let s1 := ackField ack (hostRefresh s)
  if s1.host.conn = .awaitingHandshake then becomeConnected false s1 else s1

/-- HANDSHAKE_ACK (R159). -/
def execHandshakeAck (ack _id : Byte) (_payload : List Byte) (s : State) : Host.Outcome State Fault Refusal :=
  .next (unlessFaulted (acceptHandshakeAck ack) s)

/-- UNKNOWN (R160): the host ignores the packet entirely. -/
def execUnknown (_kind _ack _id : Byte) (_payload : List Byte) (s : State) : Host.Outcome State Fault Refusal :=
  .next (quiet s)

/-! Application calls and the host's own events. -/

/-- The connection ends (R152, R161, R162, R163): both timers are cancelled, pending state is cleared, and the notification
depends on whether the connection had reached Connected; a second disconnect does nothing. A faulted block keeps its state,
which the RESET it needs will clear (log entry 24). -/
def hostDisconnect (why : Why) (s : State) : State :=
  if s.host.conn = .disconnected then s
  else
    let t := fullReset s
    let u := { t with host := { t.host with conn := .disconnected, deadline := .inf, everConnected := false } }
    notify (if s.host.everConnected then .disconnected else .connectFailed why) u

/-- `connect()` (R169, R264 steps 2 to 5): RX_FLUSH, CLEAR, then the handshake or, in direct mode, Connected at once. -/
def hostConnect (s : State) : State :=
  let s1 := hostRefresh (fullReset (issue opRxFlush (notify .connectStarted s)))
  let s2 := { s1 with host := { s1.host with everConnected := false } }
  if s2.par.direct then becomeConnected false s2
  else
    let s3 := issue (opEmit Config.kindHandshake 0#8 0#8 []) s2
    { s3 with host := { s3.host with conn := .awaitingHandshake } }

/-- The liveness deadline has passed (R161); in direct mode the check is skipped (I10). -/
def livenessExpired (par : Params) (h : HostState) : Bool :=
  !par.direct &&
    match h.deadline with
    | .fin d => decide (d < h.now)
    | .inf => false

/-- Time passes at the host; silence past the deadline tears the connection down (R161). -/
def hostElapse (ms : Nat) (s : State) : State :=
  let t := { s with host := { s.host with now := s.host.now + ms } }
  if livenessExpired t.par t.host then hostDisconnect .liveness t else t

/-- The host answers an exhausted message as a liveness failure (R165): it disconnects. With no event to answer it does
nothing. -/
def hostAnswer (s : State) : State :=
  match s.host.exhausted with
  | some _ => hostDisconnect .exhausted { s with host := { s.host with exhausted := none } }
  | none => s

/-- A host event as a whole step. -/
def hostEvent (e : HostEvent) (s : State) : State :=
  match e with
  | .connect => unlessFaulted hostConnect s
  | .disconnect => hostDisconnect .request (quiet s)
  | .ioError => hostDisconnect .ioError (quiet s)
  | .answerExhausted => hostAnswer (quiet s)
  | .isConnected => notify (.isConnected (decide (s.host.conn = .connected))) (quiet s)
  | .elapse ms => hostElapse ms (quiet s)

end Sys2Proof.Machine
end

