-- ==== Sys2Proof/Machine/Fetch.lean ====
section
/-! DEFINITION. What the next step runs (20_memory.md R50, R53, R60, R61): the oldest pending input, turned into the
instruction it presents. There is no program and no program counter (10_state.md R21). -/

namespace Sys2Proof.Machine

/-- What the front of the inbox asks for, and the machine with that input taken. -/
inductive Fetched where
  /-- Nothing to do: no input is pending, a stopped timer expires, there is no packet to take, or the host issues nothing
  because the block is faulted. -/
  | idle (s : State)
  /-- One instruction. -/
  | run (i : Instr) (s : State)
  /-- A command whose code is not in the table (R96). -/
  | badOperation (s : State)
  /-- A command that is no instruction (log entry 7). -/
  | malformed (f : Fault)
  /-- A host event that is no instruction. -/
  | host (e : HostEvent) (s : State)
deriving DecidableEq, Repr

/-- A command transaction (R96), decoded. -/
def fetchCommand (bytes : List Byte) (s : State) : Fetched :=
  match decodeCommand bytes with
  | .ok i => .run i s
  | .error (.badOperation _) => .badOperation s
  | .error .commandEmpty => .malformed .commandEmpty
  | .error .operandsMissing => .malformed .commandTruncated
  | .error .operandsLeftOver => .malformed .commandOverlong
  | .error (.badFrame _) => .malformed .commandTruncated

/-- The host takes its oldest packet (R153): the instruction is the packet's form (R90). -/
def fetchPacket (s : State) : Fetched :=
  match s.host.todo with
  | [] => .idle s
  | p :: rest => .run (formOf p) { s with host := { s.host with todo := rest } }

/-- The host issues an operation where it may; while the block is faulted it issues nothing (R171; log entry 24, and
26 for how the host knows). -/
def hostOffers (may : Bool) (i : Instr) (s : State) : Fetched := if may && !faulted s.blk then .run i s else .idle s

/-- What an input asks for. The command port and the link reach the block whatever its state (R225, R50); all else goes
through the host, which issues TICK and ENQ_HB only while their timers run (R166, R168), leaves a packet where it is
while the block is faulted, and passes on a message or a handshake in every connection state. DESIGN CHOICE: that a
message is passed on (log entry 22) and a handshake sent (log entry 23) whatever the connection state; that the host
knows of a fault at once (log entry 26). -/
def fetchInput (x : Input) (s : State) : Fetched :=
  match x with
  | .command bytes => fetchCommand bytes s
  | .chunk bytes => .run (.rxPush bytes) s
  | .sendTimer => hostOffers s.host.sendTimer .tick s
  | .hbTimer => hostOffers s.host.hbTimer .enqHb s
  | .take => if faulted s.blk then .idle s else fetchPacket s
  | .sendMessage bytes => hostOffers true (.enqMsg bytes) s
  | .sendHandshake => hostOffers true .txHandshake s
  | .host e => .host e s

/-- The next thing to do. -/
def fetch (s : State) : Fetched :=
  match s.inbox with
  | [] => .idle s
  | x :: rest => fetchInput x { s with inbox := rest }

/-- A code not in the table (R96): `Rejected(BadOperation)`, nothing changes. -/
def rejectOperation (s : State) : State :=
  let t := quiet s
  { t with out := outAppend t.out (answer (.rejected .badOperation)) }

/-- The bytes of a command word with its zero operand bytes: exactly the instruction's own. -/
def commandOfWord (nbits w : Nat) : List Byte :=
  match tableCommand nbits w with
  | some i => (encode i).getD []
  | none => wordBytes ((nbits + 7) / 8) w

/-- The packet of a header word's frame. -/
def packetOfWord (w : Nat) : Option Packet := (tableFrame w).bind decodePacket

/-- A packet placed where the host takes its next one, and the input that makes it take it. -/
def placePacket (p : Packet) (s : State) : State :=
  { s with host := { s.host with todo := p :: s.host.todo }, inbox := .take :: s.inbox }

/-- The instruction of a table word placed as the next thing a step runs (log entry 9): a header word as a packet presented
to the host, any other word as a command transaction. -/
def placeWord (s : State) (nbits w : Nat) : State :=
  if nbits = 56 then
    match packetOfWord w with
    | some p => placePacket p s
    | none => { s with inbox := .command (wordBytes 7 w) :: s.inbox }
  else { s with inbox := .command (commandOfWord nbits w) :: s.inbox }

end Sys2Proof.Machine
end

