-- ==== Sys2Proof/Machine/System.lean ====
section
/-! DEFINITION. RESET (70_reset_and_hazards.md R260), the one operation a faulted block accepts and the only way out of
the fault (R230). -/

namespace Sys2Proof.Machine

/-- RESET (R260): every element at its value of R34; nothing is emitted. -/
def opReset : BlockOp := fun _ _ =>
  ({ rb := [], q := [], nid := 1#8, pack := 0#8, phs := false, fault := none }, answer .done)

/-- RESET. -/
def execReset (s : State) : Host.Outcome State Fault Refusal := perform opReset s

end Sys2Proof.Machine
end

