-- ==== Sys2Proof/Machine/Dispatch.lean ====
section
/-! DEFINITION. One arm per row of spec/opcode_table.json, in the table's order. -/

namespace Sys2Proof.Machine

def exec (i : Instr) (s : State) : Host.Outcome State Fault Refusal :=
  match i with
  | .ctrl0 ack payload => Sys2Proof.Machine.execCtrl0 ack payload s
  | .data ack id payload => Sys2Proof.Machine.execData ack id payload s
  | .handshake ack id payload => Sys2Proof.Machine.execHandshake ack id payload s
  | .handshakeAck ack id payload => Sys2Proof.Machine.execHandshakeAck ack id payload s
  | .unknown kind ack id payload => Sys2Proof.Machine.execUnknown kind ack id payload s
  | .txData ack id payload => Sys2Proof.Machine.execTxData ack id payload s
  | .txHeartbeat ack => Sys2Proof.Machine.execTxHeartbeat ack s
  | .txBareAck ack => Sys2Proof.Machine.execTxBareAck ack s
  | .txHandshakeAck => Sys2Proof.Machine.execTxHandshakeAck s
  | .txHandshake => Sys2Proof.Machine.execTxHandshake s
  | .reset => Sys2Proof.Machine.execReset s
  | .xorsum l => Sys2Proof.Machine.execXorsum l s
  | .verify l => Sys2Proof.Machine.execVerify l s
  | .encode kind ack id payload => Sys2Proof.Machine.execEncode kind ack id payload s
  | .decode l => Sys2Proof.Machine.execDecode l s
  | .rxPush chunk => Sys2Proof.Machine.execRxPush chunk s
  | .rxFlush => Sys2Proof.Machine.execRxFlush s
  | .enqMsg payload => Sys2Proof.Machine.execEnqMsg payload s
  | .enqHb => Sys2Proof.Machine.execEnqHb s
  | .setHsack => Sys2Proof.Machine.execSetHsack s
  | .setAck n => Sys2Proof.Machine.execSetAck n s
  | .ackRx a => Sys2Proof.Machine.execAckRx a s
  | .tick => Sys2Proof.Machine.execTick s
  | .clear => Sys2Proof.Machine.execClear s
  | .rsmEnd => Sys2Proof.Machine.execRsmEnd s
  | .rsmSkip => Sys2Proof.Machine.execRsmSkip s
  | .rsmDiscard => Sys2Proof.Machine.execRsmDiscard s
  | .rsmWait => Sys2Proof.Machine.execRsmWait s
  | .rsmExtract => Sys2Proof.Machine.execRsmExtract s
  | .tHsack => Sys2Proof.Machine.execTHsack s
  | .tCollapse => Sys2Proof.Machine.execTCollapse s
  | .tHb => Sys2Proof.Machine.execTHb s
  | .tMsg => Sys2Proof.Machine.execTMsg s
  | .tExhausted => Sys2Proof.Machine.execTExhausted s
  | .tBareack => Sys2Proof.Machine.execTBareack s
  | .tIdle => Sys2Proof.Machine.execTIdle s

end Sys2Proof.Machine
end

