-- ==== Sys2Proof/Machine/Step.lean ====
section
/-! DEFINITION. One step: one pending input served from start to end (20_memory.md R60). -/

namespace Sys2Proof.Machine

/-- Serve the oldest pending input: an instruction is run by `exec`; a bad code is rejected (R96); a malformed command
faults; a host event is carried out; with nothing to do the ports are quiet. -/
def step (s : State) : Host.Outcome State Fault Refusal :=
  match fetch s with
  | .idle t => .next (quiet t)
  | .run i t => exec i t
  | .badOperation t => .next (rejectOperation t)
  | .malformed f => .fault f
  | .host e t => .next (hostEvent e t)

/-- `s` with the instruction of a table word placed where `step` takes its next one. -/
def State.withFetchWord (s : State) (nbits w : Nat) : State := placeWord s nbits w

end Sys2Proof.Machine
end

