-- ==== Sys2Proof/Safety.lean ====
section
/-! DEFINITION. The terms in which statements speak of runs: what a safe state is (10_state.md R35), what one operation
leaves of the machine, runs of several operations, and what may take the head of the queue away. -/

namespace Sys2Proof.Machine

/-! ## Safe states (R35) -/

/-- R35 (a), R139: RB between operations. -/
abbrev RbAtRest (rb : List Byte) : Prop :=
  rb.length < 7 ∨
    (rb.take 2 = [0x55#8, 0xAA#8] ∧ declaredLen rb ≤ 1014 ∧ rb.length < 10 + declaredLen rb)

/-- R35 (b). -/
abbrev QueueFits (par : Params) (q : List Entry) : Prop := limitBelow par.qdepth q.length = false

/-- An entry as it stands behind the head (R24, R35 d): a heartbeat or a message not yet sent. -/
abbrev Unsent (e : Entry) : Prop := entryId e = 0#8 ∧ entryTxc e = 0

/-- R35 (e): a head message has an id exactly when it has been sent, and was sent at most `1 + RETRY_MAX` times. -/
abbrev HeadOk (par : Params) (e : Entry) : Prop :=
  (entryId e = 0#8 ↔ entryTxc e = 0) ∧
    (match par.retryMax with
      | .fin m => decide (entryTxc e ≤ 1 + m)
      | .inf => true) = true

/-- R35 (d) and (e) of a queue. -/
abbrev QueueOk (par : Params) (q : List Entry) : Prop :=
  (∀ e ∈ q.head?, HeadOk par e) ∧ ∀ e ∈ q.tail, Unsent e

/-- R35 (f). -/
abbrev PayloadsFit (q : List Entry) : Prop := ∀ e ∈ q, (entryPayload e).length ≤ 1014

/-- R35 of the block. -/
abbrev BlockInv (par : Params) (b : Block) : Prop :=
  RbAtRest b.rb ∧ QueueFits par b.q ∧ b.nid ≠ 0#8 ∧ QueueOk par b.q ∧ PayloadsFit b.q

/-- The host's own: both timers run exactly while Connected (R166, R168), a Connected host has reached Connected (R162),
and every packet it holds fits a frame (R80). -/
abbrev HostInv (h : HostState) : Prop :=
  (h.sendTimer = true ↔ h.conn = .connected) ∧ (h.hbTimer = true ↔ h.conn = .connected) ∧
    (h.conn = .connected → h.everConnected = true) ∧ ∀ p ∈ h.todo, p.payload.length ≤ 1014

/-- A safe state of the machine between steps: the parameters as R9 types them, the block and the host. -/
abbrev Inv (s : State) : Prop := s.par.Ok ∧ BlockInv s.par s.blk ∧ HostInv s.host

/-! ## One operation and runs of operations -/

/-- The machine after an operation of the block that left `b` and put `o` on the ports: every other part unchanged, but
that the host has been handed the packets and events presented. -/
def afterOp (s : State) (b : Block) (o : Out) : State :=
  { s with blk := b, host := hear { s.host with todo := s.host.todo ++ o.rx } o.evt, out := o }

/-- Instructions run one after the other from a state; `none` where one of them stops. -/
def execAll : List Instr → State → Option State
  | [], s => some s
  | i :: rest, s =>
    match exec i s with
    | .next t => execAll rest t
    | _ => none

/-- The arms RX_PUSH's loop takes on a buffer, in order, the ending arm included (R130). -/
def rsmTrace : Nat → List Byte → List RsmArm
  | 0, _ => [.finish]
  | n + 1, rb =>
    if rsmEnds (rsmArm rb) then [rsmArm rb]
    else rsmArm rb :: rsmTrace n (rsmRun rb (rsmArm rb)).1

/-- Bytes with no `55 AA` pair in them (R140 b). -/
def noSyncPair : List Byte → Bool
  | a :: b :: rest => !(a == Config.sync0 && b == Config.sync1) && noSyncPair (b :: rest)
  | _ => true

/-- The operations of R96, by constructor. -/
def isOperation : Instr → Bool
  | .reset | .xorsum _ | .verify _ | .encode _ _ _ _ | .decode _ | .rxPush _ | .rxFlush | .enqMsg _ | .enqHb
  | .setHsack | .setAck _ | .ackRx _ | .tick | .clear => true
  | _ => false

/-- The received forms of R90, by constructor. -/
def isForm : Instr → Bool
  | .ctrl0 _ _ | .data _ _ _ | .handshake _ _ _ | .handshakeAck _ _ _ | .unknown _ _ _ _ => true
  | _ => false

/-- The emitted frames of R91, by constructor. -/
def isEmission : Instr → Bool
  | .txData _ _ _ | .txHeartbeat _ | .txBareAck _ | .txHandshakeAck | .txHandshake => true
  | _ => false

/-- The form in which the peer receives an emitted frame (R90, R91); every other instruction is its own. -/
def peerForm : Instr → Instr
  | .txData ack id payload => .data ack id payload
  | .txHeartbeat ack => .ctrl0 ack []
  | .txBareAck ack => .ctrl0 ack []
  | .txHandshakeAck => .handshakeAck 0#8 0#8 []
  | .txHandshake => .handshake 0#8 0#8 []
  | i => i

/-- The instructions that may take a head message with this id out of the queue (R189): its acknowledgement, alone or in
a received packet, and what clears the queue. -/
def mayRelease (id : Byte) : Instr → Bool
  | .ackRx a => a == id
  | .ctrl0 a _ => a == id
  | .data a _ _ => a == id
  | .handshakeAck a _ _ => a == id
  | .handshake _ _ _ => true
  | .clear => true
  | .reset => true
  | _ => false

/-- The instruction an arm of RX_PUSH is. -/
def rsmInstr : RsmArm → Instr
  | .finish => .rsmEnd
  | .skip => .rsmSkip
  | .discard => .rsmDiscard
  | .wait => .rsmWait
  | .extract => .rsmExtract

/-- The five arms of RX_PUSH and the seven of TICK, as instructions. -/
def rsmArms : List Instr := [.rsmEnd, .rsmSkip, .rsmDiscard, .rsmWait, .rsmExtract]
def tickArms : List Instr := [.tHsack, .tCollapse, .tHb, .tMsg, .tExhausted, .tBareack, .tIdle]

/-- A chunk RX_PUSH accepts (R130). -/
abbrev ChunkFits (par : Params) (c : List Byte) : Prop := ∀ m, par.chunkMax = .fin m → c.length ≤ m

/-- A message the retry bound still lets go out (R194): sent fewer than `1 + RETRY_MAX` times. -/
abbrev MaySend (par : Params) (txc : Nat) : Prop := ∀ m, par.retryMax = .fin m → txc < 1 + m

/-- The queue after a packet's `ack` field has been looked at (R158, R186). -/
def ackedQueue (a : Byte) (q : List Entry) : List Entry :=
  match q with
  | e :: rest => if a ≠ 0#8 ∧ entryId e = a then rest else e :: rest
  | [] => []

/-- One row of R90's table: its form's name in spec/opcode_table.json, and its match and mask on `H`. -/
structure FormRow where
  form : String
  pattern : HeaderWord
  mask : HeaderWord
deriving DecidableEq, Repr

/-- R90's table, in its order. -/
def formRows : List FormRow :=
  [⟨"CTRL0", 0x55AA0000000000#56, 0xFFFFFF00FF0000#56⟩,
   ⟨"DATA", 0x55AA0000000000#56, 0xFFFFFF00000000#56⟩,
   ⟨"HANDSHAKE", 0x55AA0100000000#56, 0xFFFFFF00000000#56⟩,
   ⟨"HANDSHAKE_ACK", 0x55AA0200000000#56, 0xFFFFFF00000000#56⟩,
   ⟨"UNKNOWN", 0x55AA0000000000#56, 0xFFFF0000000000#56⟩]

/-- The name of a received form in the table. -/
def formName : Instr → Option String
  | .ctrl0 _ _ => some "CTRL0"
  | .data _ _ _ => some "DATA"
  | .handshake _ _ _ => some "HANDSHAKE"
  | .handshakeAck _ _ _ => some "HANDSHAKE_ACK"
  | .unknown _ _ _ _ => some "UNKNOWN"
  | _ => none

end Sys2Proof.Machine
end

