-- ==== Sys2Proof/Certificates/Slice0/Obligations.lean ====
section
/-! DEFINITION. The statements for the provers. Each docstring names the rule of spec/ it formalises. "Decision Dn" is the
spec's own decision in 92_eei_decisions.md; "log n" is the model's own entry in notes/assumptions/. -/

open Sys2Proof Sys2Proof.Machine

/-! ## Packet Codec -/

/-- R110 with its corner cases: XORSUM returns the XOR of the bytes, from zero, left to right, and writes nothing. The
independence of the order is the spec's own inference there. -/
def Obligations.XorsumReturnsTheXor : Prop :=
  (∀ (s : State) (l : List Byte), s.blk.fault = none →
    exec (.xorsum l) s = .next { s with out := { ret := [.byte (xorAll l)] } }) ∧
  xorAll [] = 0#8 ∧
  (∀ (l : List Byte) (b : Byte), xorAll (l ++ [b]) = xorAll l ^^^ b) ∧
  (∀ b : Byte, xorAll [b] = b) ∧
  (∀ l : List Byte, xorAll (l ++ [xorAll l]) = 0#8) ∧
  (∀ l m : List Byte, l.Perm m → xorAll l = xorAll m)

/-- R111 (decisions D5, D29): VERIFY always returns, writes nothing, and reports the first failing check in the order
length, sync, trailer, checksum; `L` is the slice's own length field. The last check is stated in the equivalent form
the rule gives: the XOR of the covered bytes and the checksum byte is zero. -/
def Obligations.VerifyReportsTheFirstDefect : Prop :=
  ∀ (s : State) (l : List Byte), s.blk.fault = none →
    let len := 256 * (l.getD 5 0#8).toNat + (l.getD 6 0#8).toNat
    let lengthOk := 10 ≤ l.length ∧ len ≤ 1014 ∧ l.length = 10 + len
    let syncOk := l.getD 0 0#8 = 0x55#8 ∧ l.getD 1 0#8 = 0xAA#8
    let trailerOk := l.getD (8 + len) 0#8 = 0xCC#8 ∧ l.getD (9 + len) 0#8 = 0x33#8
    let sumOk := xorAll ((l.drop 2).take (6 + len)) = 0#8
    ∃ v, exec (.verify l) s = .next { s with out := { ret := [.verdict v] } } ∧
      (v = .bad .badLength ↔ ¬ lengthOk) ∧
      (v = .bad .badSync ↔ lengthOk ∧ ¬ syncOk) ∧
      (v = .bad .badTrailer ↔ lengthOk ∧ syncOk ∧ ¬ trailerOk) ∧
      (v = .bad .badChecksum ↔ lengthOk ∧ syncOk ∧ trailerOk ∧ ¬ sumOk) ∧
      (v = .ok ↔ lengthOk ∧ syncOk ∧ trailerOk ∧ sumOk)

/-- R112, R81 (decisions D4, D20): ENCODE of any kind, ack and id and a payload of at most 1014 bytes returns the frame with
every byte at its offset, and writes nothing. -/
def Obligations.EncodeBuildsTheFrame : Prop :=
  ∀ (s : State) (kind ack id : Byte) (p : List Byte), s.blk.fault = none → p.length ≤ 1014 →
    ∃ f, exec (.encode kind ack id p) s = .next { s with out := { ret := [.frame f] } } ∧
      f.length = 10 + p.length ∧ f.length ≤ 1024 ∧
      f.take 5 = [0x55#8, 0xAA#8, kind, ack, id] ∧
      256 * (f.getD 5 0#8).toNat + (f.getD 6 0#8).toNat = p.length ∧
      (f.drop 7).take p.length = p ∧
      f.getD (7 + p.length) 0#8 = xorAll ((f.drop 2).take (5 + p.length)) ∧
      f.drop (8 + p.length) = [0xCC#8, 0x33#8]

/-- R221 (decision D13): an oversize ENCODE takes the fault: FAULT is set with the cause, the event is presented, no frame is
produced and nothing else changes. -/
def Obligations.OversizeEncodeFaults : Prop :=
  ∀ (s : State) (kind ack id : Byte) (p : List Byte), s.blk.fault = none → 1014 < p.length →
    exec (.encode kind ack id p) s =
      .next { s with
        blk := { s.blk with fault := some .payloadTooLong }
        out := { ret := [.raised .payloadTooLong], evt := [.faulted .payloadTooLong] } }

/-- R113 (decision D5): DECODE is total and writes nothing; it returns the fields of a slice VERIFY accepts, and the one
verdict `ChecksumInvalid` (`none`) for any other. -/
def Obligations.DecodeReturnsTheFields : Prop :=
  ∀ (s : State) (l : List Byte), s.blk.fault = none →
    exec (.decode l) s =
      .next { s with out := { ret := [.decoded (
        if verifyFrame l = .ok then
          some { kind := l.getD 2 0#8, ack := l.getD 3 0#8, id := l.getD 4 0#8,
                 payload := (l.drop 7).take (256 * (l.getD 5 0#8).toNat + (l.getD 6 0#8).toNat) }
        else none)] } }

/-- R114 (the converse is the spec's own inference there): decoding an encoded packet gives it back, and a frame that decodes
is the encoding of its packet. -/
def Obligations.CodecRoundTrip : Prop :=
  (∀ (kind ack id : Byte) (p : List Byte), p.length ≤ 1014 →
    ∃ f, encodeFrame kind ack id p = some f ∧ decodePacket f = some { kind, ack, id, payload := p }) ∧
  (∀ (f : List Byte) (kind ack id : Byte) (p : List Byte),
    decodePacket f = some { kind, ack, id, payload := p } → encodeFrame kind ack id p = some f)

/-- R115 (derived there from R111, decision D5): flipping any one bit of a frame that decodes makes DECODE report it invalid,
and VERIFY names the field the bit is in. -/
def Obligations.SingleBitFlipIsCaught : Prop :=
  ∀ (f : List Byte) (i k : Nat), decodePacket f ≠ none → i < f.length → k < 8 →
    let g := f.set i (f.getD i 0#8 ^^^ BitVec.ofNat 8 (2 ^ k))
    decodePacket g = none ∧
      verifyFrame g = .bad (
        if i < 2 then .badSync
        else if i = 5 ∨ i = 6 then .badLength
        else if i < f.length - 2 then .badChecksum
        else .badTrailer)

/-! ## Encodings -/

/-- R90, R82 (decision D14): the form of a frame DECODE accepts is the first row of R90's table whose match and mask select
its header word. -/
def Obligations.FormIsTheFirstMatchingRow : Prop :=
  ∀ (f : List Byte), decodePacket f ≠ none →
    ∃ i, decodeFrame f = .ok i ∧
      formName i = (formRows.find? fun r => headerWord f &&& r.mask == r.pattern).map (fun r => r.form)

/-- R81, R90, R91, R96, R97 (decision D14): every well-formed operation and every well-formed received form is what its own
bytes decode to; an emitted frame is received as its form; an arm has no code. -/
def Obligations.DecodeOfEncodeAgrees : Prop :=
  ∀ i : Instr, WellFormed i = true →
    (isOperation i = true → ∃ bytes, encode i = some bytes ∧ decodeCommand bytes = .ok i) ∧
    (isForm i = true → ∃ f, encode i = some f ∧ decodeFrame f = .ok i) ∧
    (isEmission i = true → ∃ f, encode i = some f ∧ decodeFrame f = .ok (peerForm i)) ∧
    (isOperation i = false → isForm i = false → isEmission i = false → encode i = none)

/-- R96, R114 (decision D14): what the decoders read is well formed, and its encoding is exactly the bytes they read: no two
byte strings stand for one instruction. -/
def Obligations.EncodeOfDecodeAgrees : Prop :=
  (∀ (bytes : List Byte) (i : Instr), decodeCommand bytes = .ok i →
    WellFormed i = true ∧ isOperation i = true ∧ encode i = some bytes) ∧
  (∀ (f : List Byte) (i : Instr), decodeFrame f = .ok i →
    WellFormed i = true ∧ isForm i = true ∧ encode i = some f)

/-- R91, R96 and 95_test_vectors.md (K1, K3, K4, K5, K9, O1 to O7): bytes written out from the encodings decode to the
instruction they stand for. -/
def Obligations.SampleWordsDecode : Prop :=
  decodeFrame [0x55, 0xAA, 0x00, 0x00, 0x01, 0x00, 0x02, 0x68, 0x69, 0x02, 0xCC, 0x33] = .ok (.data 0 1 [0x68, 0x69]) ∧
  decodeFrame [0x55, 0xAA, 0x00, 0x01, 0x00, 0x00, 0x00, 0x01, 0xCC, 0x33] = .ok (.ctrl0 1 []) ∧
  decodeFrame [0x55, 0xAA, 0x01, 0x00, 0x00, 0x00, 0x00, 0x01, 0xCC, 0x33] = .ok (.handshake 0 0 []) ∧
  decodeFrame [0x55, 0xAA, 0x02, 0x00, 0x00, 0x00, 0x00, 0x02, 0xCC, 0x33] = .ok (.handshakeAck 0 0 []) ∧
  decodeFrame [0x55, 0xAA, 0x07, 0x00, 0x00, 0x00, 0x00, 0x07, 0xCC, 0x33] = .ok (.unknown 7 0 0 []) ∧
  decodeCommand [0x01] = .ok .reset ∧
  decodeCommand [0x10, 0x00, 0x03, 0x00, 0x00, 0x01] = .ok (.xorsum [0x00, 0x00, 0x01]) ∧
  decodeCommand [0x12, 0x00, 0x00, 0x01, 0x00, 0x02, 0x68, 0x69] = .ok (.encode 0 0 1 [0x68, 0x69]) ∧
  decodeCommand [0x20, 0x00, 0x03, 0x55, 0xAA, 0x00] = .ok (.rxPush [0x55, 0xAA, 0x00]) ∧
  decodeCommand [0x30, 0x00, 0x02, 0x68, 0x69] = .ok (.enqMsg [0x68, 0x69]) ∧
  decodeCommand [0x33, 0x01] = .ok (.setAck 1) ∧
  decodeCommand [0x34, 0x01] = .ok (.ackRx 1) ∧
  decodeCommand [0x31] = .ok .enqHb ∧
  decodeCommand [0x32] = .ok .setHsack ∧
  decodeCommand [0x35] = .ok .tick ∧
  decodeCommand [0x36] = .ok .clear ∧
  decodeCommand [0x21] = .ok .rxFlush

/-- R96 (decision D14): a command whose code is not in the table is rejected with `BadOperation`, and nothing changes but that
the command has been taken. -/
def Obligations.UnknownCodeIsRejected : Prop :=
  ∀ (s : State) (c : Byte) (operands : List Byte) (rest : List Input),
    s.inbox = .command (c :: operands) :: rest →
    c.toNat ∉ [0x01, 0x10, 0x11, 0x12, 0x13, 0x20, 0x21, 0x30, 0x31, 0x32, 0x33, 0x34, 0x35, 0x36] →
    step s = .next { s with inbox := rest, out := { ret := [.rejected .badOperation] } }

/-! ## The step -/

/-- R50, R53, R60, R153, R166, R168, R169, R170, R171 and log 3: a step takes the oldest input and runs the instruction it
presents, and nothing else: a decoded command, a chunk, and, where the block is not faulted, a tick, a heartbeat tick, the
form of the oldest presented packet, a message of the application, a handshake the host writes. An expiry of a stopped
timer, a take with no packet, and no input at all change nothing; nor, while the block is faulted, does any input the host
acts on the block for (the model's choice of what the host then does and how it knows: logs 24 and 26). That a message or a handshake goes out in
every connection state is the model's choice (logs 22 and 23). -/
def Obligations.StepRunsTheInstruction : Prop :=
  ∀ (s : State) (rest : List Input),
    (∀ bytes i, s.inbox = .command bytes :: rest → decodeCommand bytes = .ok i →
      step s = exec i { s with inbox := rest }) ∧
    (∀ c, s.inbox = .chunk c :: rest → step s = exec (.rxPush c) { s with inbox := rest }) ∧
    (s.blk.fault = none →
      (s.inbox = .sendTimer :: rest → s.host.sendTimer = true → step s = exec .tick { s with inbox := rest }) ∧
      (s.inbox = .hbTimer :: rest → s.host.hbTimer = true → step s = exec .enqHb { s with inbox := rest }) ∧
      (∀ p ps, s.inbox = .take :: rest → s.host.todo = p :: ps →
        step s = exec (formOf p) { s with inbox := rest, host := { s.host with todo := ps } }) ∧
      (∀ m, s.inbox = .sendMessage m :: rest → step s = exec (.enqMsg m) { s with inbox := rest }) ∧
      (s.inbox = .sendHandshake :: rest → step s = exec .txHandshake { s with inbox := rest })) ∧
    ((s.inbox = .sendTimer :: rest ∧ s.host.sendTimer = false) ∨ (s.inbox = .hbTimer :: rest ∧ s.host.hbTimer = false) ∨
      (s.inbox = .take :: rest ∧ s.host.todo = []) ∨ (s.inbox = [] ∧ rest = []) →
      step s = .next { s with inbox := rest, out := {} }) ∧
    (∀ x, s.inbox = x :: rest → s.blk.fault ≠ none →
      x ∈ [.sendTimer, .hbTimer, .take, .sendHandshake, .host .connect] ∨ (∃ m, x = .sendMessage m) →
      step s = .next { s with inbox := rest, out := {} })

/-- R93 ("every byte sequence on the RX stream has a defined effect") for every input, and log 7: a step answers a next state,
except on a command transaction that is empty, too short or too long, and on each of those it faults by its name; no step
is refused. -/
def Obligations.StepStopsOnlyOnMalformedCommands : Prop :=
  (∀ s : State, (∃ t, step s = .next t) ∨
    (∃ bytes rest, s.inbox = .command bytes :: rest ∧
      (decodeCommand bytes = .error .commandEmpty ∨ decodeCommand bytes = .error .operandsMissing ∨
        decodeCommand bytes = .error .operandsLeftOver))) ∧
  (∀ (s : State) (bytes : List Byte) (rest : List Input), s.inbox = .command bytes :: rest →
    (decodeCommand bytes = .error .commandEmpty → step s = .fault .commandEmpty) ∧
    (decodeCommand bytes = .error .operandsMissing → step s = .fault .commandTruncated) ∧
    (decodeCommand bytes = .error .operandsLeftOver → step s = .fault .commandOverlong))

/-! ## Emitted frames -/

/-- R91 (decision D15) and log 6: each emitted frame goes out whole on TX with the bytes of its row; the block is unchanged. -/
def Obligations.EmittedFramesGoOut : Prop :=
  ∀ s : State, s.blk.fault = none →
    (∀ (a i : Byte) (p : List Byte), p.length ≤ 1014 →
      ∃ f, encodeFrame 0x00#8 a i p = some f ∧
        exec (.txData a i p) s = .next { s with out := { ret := [.frame f], tx := [f] } }) ∧
    (∀ a : Byte, exec (.txHeartbeat a) s =
      .next { s with out := {
        ret := [.frame [0x55, 0xAA, 0x00, a, 0x00, 0x00, 0x00, a, 0xCC, 0x33]]
        tx := [[0x55, 0xAA, 0x00, a, 0x00, 0x00, 0x00, a, 0xCC, 0x33]] } }) ∧
    (∀ a : Byte, exec (.txBareAck a) s =
      .next { s with out := {
        ret := [.frame [0x55, 0xAA, 0x00, a, 0x00, 0x00, 0x00, a, 0xCC, 0x33]]
        tx := [[0x55, 0xAA, 0x00, a, 0x00, 0x00, 0x00, a, 0xCC, 0x33]] } }) ∧
    exec .txHandshakeAck s =
      .next { s with out := {
        ret := [.frame [0x55, 0xAA, 0x02, 0x00, 0x00, 0x00, 0x00, 0x02, 0xCC, 0x33]]
        tx := [[0x55, 0xAA, 0x02, 0x00, 0x00, 0x00, 0x00, 0x02, 0xCC, 0x33]] } } ∧
    exec .txHandshake s =
      .next { s with out := {
        ret := [.frame [0x55, 0xAA, 0x01, 0x00, 0x00, 0x00, 0x00, 0x01, 0xCC, 0x33]]
        tx := [[0x55, 0xAA, 0x01, 0x00, 0x00, 0x00, 0x00, 0x01, 0xCC, 0x33]] } }

/-! ## Stream Reassembler -/

/-- R130, R139 (derived there; decision D6): RX_PUSH of a chunk that fits completes; it writes RB alone, removing bytes from
the front only, and leaves RB at rest with at most 1023 bytes; its packets are returned and presented to the host in
order. A chunk that does not fit is rejected and nothing changes. -/
def Obligations.RxPushEndsAtRest : Prop :=
  ∀ (s : State) (c : List Byte), s.blk.fault = none →
    (ChunkFits s.par c →
      ∃ rb ps, exec (.rxPush c) s = .next { s with
          blk := { s.blk with rb := rb }
          host := { s.host with todo := s.host.todo ++ ps }
          out := { ret := [.packets ps], rx := ps } } ∧
        rb <:+ s.blk.rb ++ c ∧ RbAtRest rb ∧ rb.length ≤ 1023) ∧
    (¬ ChunkFits s.par c →
      exec (.rxPush c) s = .next { s with out := { ret := [.rejected .chunkTooLong] } })

/-- R132: arm RSM_SKIP drops exactly one byte from the front, and RX_PUSH goes on from what is left. -/
def Obligations.SkipDropsOneByte : Prop :=
  (∀ s : State, s.blk.fault = none → 7 ≤ s.blk.rb.length → s.blk.rb.take 2 ≠ [0x55#8, 0xAA#8] →
    exec .rsmSkip s = .next { s with blk := { s.blk with rb := s.blk.rb.drop 1 }, out := {} }) ∧
  (∀ (s : State) (c : List Byte), s.blk.fault = none → ChunkFits s.par c →
    7 ≤ (s.blk.rb ++ c).length → (s.blk.rb ++ c).take 2 ≠ [0x55#8, 0xAA#8] →
    exec (.rxPush c) s = exec (.rxPush []) { s with blk := { s.blk with rb := (s.blk.rb ++ c).drop 1 } })

/-- R133: arm RSM_DISCARD empties the whole buffer where a complete header declares more than 1014 bytes, and RX_PUSH ends
with no packet from it. -/
def Obligations.DiscardEmptiesTheBuffer : Prop :=
  (∀ s : State, s.blk.fault = none → 7 ≤ s.blk.rb.length → s.blk.rb.take 2 = [0x55#8, 0xAA#8] →
    1014 < declaredLen s.blk.rb →
    exec .rsmDiscard s = .next { s with blk := { s.blk with rb := [] }, out := {} }) ∧
  (∀ (s : State) (c : List Byte), s.blk.fault = none → ChunkFits s.par c →
    7 ≤ (s.blk.rb ++ c).length → (s.blk.rb ++ c).take 2 = [0x55#8, 0xAA#8] →
    1014 < declaredLen (s.blk.rb ++ c) →
    exec (.rxPush c) s =
      .next { s with blk := { s.blk with rb := [] }, out := { ret := [.packets []] } })

/-- R134: arm RSM_WAIT consumes nothing; RX_PUSH ends and the partial frame stays in RB. -/
def Obligations.WaitConsumesNothing : Prop :=
  (∀ s : State, s.blk.fault = none → 7 ≤ s.blk.rb.length → s.blk.rb.take 2 = [0x55#8, 0xAA#8] →
    declaredLen s.blk.rb ≤ 1014 → s.blk.rb.length < 10 + declaredLen s.blk.rb →
    exec .rsmWait s = .next { s with out := {} }) ∧
  (∀ (s : State) (c : List Byte), s.blk.fault = none → ChunkFits s.par c →
    7 ≤ (s.blk.rb ++ c).length → (s.blk.rb ++ c).take 2 = [0x55#8, 0xAA#8] →
    declaredLen (s.blk.rb ++ c) ≤ 1014 → (s.blk.rb ++ c).length < 10 + declaredLen (s.blk.rb ++ c) →
    exec (.rxPush c) s =
      .next { s with blk := { s.blk with rb := s.blk.rb ++ c }, out := { ret := [.packets []] } })

/-- R135, R137: arm RSM_EXTRACT cuts exactly `10 + L` bytes; a packet DECODE finds in them is presented, a frame it rejects is
dropped; RX_PUSH goes on from what is left, with that packet first. -/
def Obligations.ExtractCutsOneFrame : Prop :=
  (∀ s : State, s.blk.fault = none → 7 ≤ s.blk.rb.length → s.blk.rb.take 2 = [0x55#8, 0xAA#8] →
    declaredLen s.blk.rb ≤ 1014 → 10 + declaredLen s.blk.rb ≤ s.blk.rb.length →
    let ps := (decodePacket (s.blk.rb.take (10 + declaredLen s.blk.rb))).toList
    exec .rsmExtract s = .next { s with
      blk := { s.blk with rb := s.blk.rb.drop (10 + declaredLen s.blk.rb) }
      host := { s.host with todo := s.host.todo ++ ps }
      out := { rx := ps } }) ∧
  (∀ (s : State) (c : List Byte), s.blk.fault = none → ChunkFits s.par c →
    7 ≤ (s.blk.rb ++ c).length → (s.blk.rb ++ c).take 2 = [0x55#8, 0xAA#8] →
    declaredLen (s.blk.rb ++ c) ≤ 1014 → 10 + declaredLen (s.blk.rb ++ c) ≤ (s.blk.rb ++ c).length →
    let n := 10 + declaredLen (s.blk.rb ++ c)
    let ps := (decodePacket ((s.blk.rb ++ c).take n)).toList
    ∃ rb qs,
      exec (.rxPush []) { s with blk := { s.blk with rb := (s.blk.rb ++ c).drop n } } = .next { s with
        blk := { s.blk with rb := rb }
        host := { s.host with todo := s.host.todo ++ qs }
        out := { ret := [.packets qs], rx := qs } } ∧
      exec (.rxPush c) s = .next { s with
        blk := { s.blk with rb := rb }
        host := { s.host with todo := s.host.todo ++ (ps ++ qs) }
        out := { ret := [.packets (ps ++ qs)], rx := ps ++ qs } })

/-- R136: arm RSM_END leaves fewer than 7 bytes alone, whatever they are, and RX_PUSH ends. -/
def Obligations.ShortBufferIsLeftAlone : Prop :=
  (∀ s : State, s.blk.fault = none → s.blk.rb.length < 7 → exec .rsmEnd s = .next { s with out := {} }) ∧
  (∀ (s : State) (c : List Byte), s.blk.fault = none → ChunkFits s.par c → (s.blk.rb ++ c).length < 7 →
    exec (.rxPush c) s =
      .next { s with blk := { s.blk with rb := s.blk.rb ++ c }, out := { ret := [.packets []] } })

/-- R36 (a), R130 (derived there): RX_PUSH is its arms: appending the chunk and running, one by one, the arms of the loop's
trace leaves the same block and hands the host the same packets. -/
def Obligations.RxPushIsItsArms : Prop :=
  ∀ (s : State) (c : List Byte), s.blk.fault = none → ChunkFits s.par c →
    ∃ t u, exec (.rxPush c) s = .next t ∧
      execAll ((rsmTrace (s.blk.rb ++ c).length (s.blk.rb ++ c)).map rsmInstr)
        { s with blk := { s.blk with rb := s.blk.rb ++ c } } = some u ∧
      t.blk = u.blk ∧ t.host = u.host

/-- R36, R97 (derived there) and log 5: in every state of a block that is not faulted exactly one arm of RX_PUSH and exactly
one arm of TICK can be taken; every other is refused by name. -/
def Obligations.ExactlyOneArmIsSelected : Prop :=
  ∀ s : State, s.blk.fault = none →
    (∃ i ∈ rsmArms, (∃ t, exec i s = .next t) ∧ ∀ j ∈ rsmArms, j ≠ i → exec j s = .refused .armNotSelected) ∧
    (∃ i ∈ tickArms, (∃ t, exec i s = .next t) ∧ ∀ j ∈ tickArms, j ≠ i → exec j s = .refused .armNotSelected)

/-- R130's corner case (derived there): an empty chunk changes nothing in a block at rest. -/
def Obligations.EmptyChunkChangesNothing : Prop :=
  ∀ s : State, s.blk.fault = none → RbAtRest s.blk.rb →
    exec (.rxPush []) s = .next { s with out := { ret := [.packets []] } }

/-- R140 (a): a valid frame cut into any chunks is presented exactly once, and RB is empty again. -/
def Obligations.CutFrameIsReassembled : Prop :=
  ∀ (s : State) (f : List Byte) (p : Packet) (cs : List (List Byte)),
    s.blk.fault = none → s.blk.rb = [] → decodePacket f = some p → cs.flatten = f →
    (∀ c ∈ cs, ChunkFits s.par c) →
    ∃ t, execAll (cs.map .rxPush) s = some t ∧ t.blk = s.blk ∧ t.par = s.par ∧ t.inbox = s.inbox ∧
      t.host = { s.host with todo := s.host.todo ++ [p] }

/-- R140 (b): garbage without a sync pair before a valid frame is dropped, and the frame is presented. -/
def Obligations.GarbageBeforeFrameIsSkipped : Prop :=
  ∀ (s : State) (g f : List Byte) (p : Packet),
    s.blk.fault = none → s.blk.rb = [] → decodePacket f = some p → noSyncPair g = true → ChunkFits s.par (g ++ f) →
    exec (.rxPush (g ++ f)) s =
      .next { s with
        host := { s.host with todo := s.host.todo ++ [p] }
        out := { ret := [.packets [p]], rx := [p] } }

/-- R141 (derived there): where arm RSM_DISCARD is not taken, a stream's packets and residue do not depend on where it is cut
into chunks. -/
def Obligations.ChunkCutsAgreeWithoutDiscard : Prop :=
  ∀ (s : State) (c d : List Byte), s.blk.fault = none → ChunkFits s.par (c ++ d) →
    RsmArm.discard ∉ rsmTrace (s.blk.rb ++ (c ++ d)).length (s.blk.rb ++ (c ++ d)) →
    ∃ t u, execAll [.rxPush c, .rxPush d] s = some t ∧ exec (.rxPush (c ++ d)) s = .next u ∧
      t.blk = u.blk ∧ t.host = u.host

/-- R138, R59 (decision D12): RX_FLUSH empties RB and touches nothing else; a second one changes nothing more. -/
def Obligations.RxFlushEmptiesTheBuffer : Prop :=
  ∀ s : State, s.blk.fault = none →
    ∃ t, t = { s with blk := { s.blk with rb := [] }, out := { ret := [.done] } } ∧
      exec .rxFlush s = .next t ∧ exec .rxFlush t = .next t

/-! ## Retransmission Scheduler: loading -/

/-- R181 (decisions D10, D23): ENQ_MSG puts the message at the tail with no id; an oversize payload, and then a full queue, is
rejected and nothing changes. -/
def Obligations.EnqMsgQueuesAtTheTail : Prop :=
  ∀ (s : State) (p : List Byte), s.blk.fault = none →
    (1014 < p.length → exec (.enqMsg p) s = .next { s with out := { ret := [.rejected .tooLong] } }) ∧
    (p.length ≤ 1014 → s.par.qdepth = .fin s.blk.q.length →
      exec (.enqMsg p) s = .next { s with out := { ret := [.rejected .queueFull] } }) ∧
    (p.length ≤ 1014 → s.par.qdepth ≠ .fin s.blk.q.length →
      exec (.enqMsg p) s =
        .next { s with blk := { s.blk with q := s.blk.q ++ [.msg p 0#8 0] }, out := { ret := [.ok] } })

/-- R183 (decision D10): ENQ_HB puts a heartbeat at the tail; a full queue is rejected and nothing changes. -/
def Obligations.EnqHbQueuesAHeartbeat : Prop :=
  ∀ s : State, s.blk.fault = none →
    (s.par.qdepth = .fin s.blk.q.length →
      exec .enqHb s = .next { s with out := { ret := [.rejected .queueFull] } }) ∧
    (s.par.qdepth ≠ .fin s.blk.q.length →
      exec .enqHb s = .next { s with blk := { s.blk with q := s.blk.q ++ [.hb] }, out := { ret := [.ok] } })

/-- R184: SET_HSACK sets PHS; a second one leaves it set, and one HandshakeAck (kind 0x02) goes out, not two: the tick after
both takes arm T_HSACK and leaves PHS clear. -/
def Obligations.SetHsackSetsThePendingConfirm : Prop :=
  ∀ s : State, s.blk.fault = none →
    ∃ t u, t = { s with blk := { s.blk with phs := true }, out := { ret := [.done] } } ∧
      exec .setHsack s = .next t ∧ exec .setHsack t = .next t ∧
      exec .tick t = .next u ∧ u.out.ret = [.arm .hsack] ∧ (∃ f, u.out.tx = [f] ∧ f.getD 2 0#8 = 0x02#8) ∧
      u.blk.phs = false

/-- R185, R59 (decision D16 for `SET_ACK(0)`): SET_ACK overwrites the Pending Ack, and with operand 0 changes nothing; a second
one with the same operand changes nothing more. -/
def Obligations.SetAckOverwritesThePendingAck : Prop :=
  ∀ (s : State) (i : Byte), s.blk.fault = none →
    (i ≠ 0#8 → ∃ t, t = { s with blk := { s.blk with pack := i }, out := { ret := [.done] } } ∧
      exec (.setAck i) s = .next t ∧ exec (.setAck i) t = .next t) ∧
    (i = 0#8 → exec (.setAck i) s = .next { s with out := { ret := [.done] } })

/-- R186 (decision D22): ACK_RX pops the head where its id is the nonzero operand, and is ignored otherwise: on an empty queue,
on a head with another id, and always with operand 0. -/
def Obligations.AckRxPopsTheMatchingHead : Prop :=
  ∀ (s : State) (a : Byte), s.blk.fault = none →
    (∀ e rest, s.blk.q = e :: rest → a ≠ 0#8 → entryId e = a →
      exec (.ackRx a) s = .next { s with blk := { s.blk with q := rest }, out := { ret := [.popped] } }) ∧
    ((a = 0#8 ∨ ∀ e ∈ s.blk.q.head?, entryId e ≠ a) →
      exec (.ackRx a) s = .next { s with out := { ret := [.ignored] } })

/-- R187, R261, R59 (decisions D11, D12): CLEAR empties Q, PACK and PHS and returns NID to 1; RB and FAULT are kept; a second
one changes nothing more. -/
def Obligations.ClearWipesTheScheduler : Prop :=
  ∀ s : State, s.blk.fault = none →
    ∃ t, t = { s with
        blk := { s.blk with q := [], pack := 0#8, phs := false, nid := 1#8 }
        out := { ret := [.done] } } ∧
      exec .clear s = .next t ∧ exec .clear t = .next t

/-- R260, R34, R59 (decisions D30, D11, D12): RESET is accepted in every state, faulted or not, and gives all six elements their
reset values; a second one changes nothing more. -/
def Obligations.ResetIsAlwaysAccepted : Prop :=
  ∀ s : State,
    ∃ t, t = { s with
        blk := { rb := [], q := [], nid := 1#8, pack := 0#8, phs := false, fault := none }
        out := { ret := [.done] } } ∧
      exec .reset s = .next t ∧ exec .reset t = .next t

/-! ## Retransmission Scheduler: TICK -/

/-- R191 (decision D15): with PHS = 1 a TICK is arm T_HSACK: PHS is cleared, the fixed frame goes out, and the queue, NID and
PACK are not touched. -/
def Obligations.TickSendsHandshakeAckFirst : Prop :=
  ∀ s : State, s.blk.fault = none → s.blk.phs = true →
    ∃ t, t = { s with
        blk := { s.blk with phs := false }
        out := { ret := [.arm .hsack], tx := [[0x55, 0xAA, 0x02, 0x00, 0x00, 0x00, 0x00, 0x02, 0xCC, 0x33]] } } ∧
      exec .tHsack s = .next t ∧ exec .tick s = .next t

/-- R192: T_COLLAPSE runs exactly where PHS = 0 and the head heartbeat has anything behind it; one pass drops that heartbeat
and emits nothing; a TICK on any number of such heartbeats does what it does on the queue without them. The payload bound
is R35 (f). -/
def Obligations.LeadingHeartbeatsCollapse : Prop :=
  (∀ s : State, s.blk.fault = none →
    ((∃ t, exec .tCollapse s = .next t) ↔ s.blk.phs = false ∧ ∃ e rest, s.blk.q = .hb :: e :: rest)) ∧
  (∀ (s : State) (e : Entry) (rest : List Entry), s.blk.fault = none → s.blk.phs = false →
    (s.blk.q = .hb :: e :: rest →
      exec .tCollapse s = .next { s with blk := { s.blk with q := e :: rest }, out := {} }) ∧
    (∀ k, s.blk.q = List.replicate k .hb ++ e :: rest → PayloadsFit (e :: rest) →
      exec .tick s = exec .tick { s with blk := { s.blk with q := e :: rest } }))

/-- R193 (decision D8): a heartbeat alone in the queue, with any number of collapsed ones before it, goes out carrying the
pending ack; the queue is empty and PACK is cleared. -/
def Obligations.LoneHeartbeatCarriesTheAck : Prop :=
  ∀ s : State, s.blk.fault = none → s.blk.phs = false →
    (s.blk.q = [.hb] → exec .tHb s = exec .tick s) ∧
    (∀ k, s.blk.q = List.replicate (k + 1) .hb →
      exec .tick s = .next { s with
        blk := { s.blk with q := [], pack := 0#8 }
        out := { ret := [.arm .hb], tx := [[0x55, 0xAA, 0x00, s.blk.pack, 0x00, 0x00, 0x00, s.blk.pack, 0xCC, 0x33]] } })

/-- R194, R195 (and R196, decision D21): a message at the head goes out under its id, or under NID at its first transmission,
when NID moves on and after 255 comes 1; the pending ack is merged and cleared; the count goes up by one; the entry stays
at the head and the rest of the queue is unchanged. -/
def Obligations.HeadMessageGoesOut : Prop :=
  ∀ (s : State) (p : List Byte) (i : Byte) (n : Nat) (rest : List Entry),
    s.blk.fault = none → s.blk.phs = false → s.blk.q = .msg p i n :: rest → p.length ≤ 1014 → MaySend s.par n →
    let id := if i = 0#8 then s.blk.nid else i
    ∃ f t, encodeFrame 0x00#8 s.blk.pack id p = some f ∧
      t = { s with
        blk := { s.blk with
          q := .msg p id (n + 1) :: rest
          nid := if i = 0#8 then (if s.blk.nid = 255#8 then 1#8 else s.blk.nid + 1#8) else s.blk.nid
          pack := 0#8 }
        out := { ret := [.arm .msg], tx := [f] } } ∧
      exec .tMsg s = .next t ∧ exec .tick s = .next t

/-- R197 (decisions D9, D25): a head message already sent `1 + RETRY_MAX` times is not sent again: the event is presented, no
frame goes out and no element of the block changes, PACK included; the host is handed the event (R226; log 25). -/
def Obligations.ExhaustedHeadOnlyRaisesTheEvent : Prop :=
  ∀ (s : State) (p : List Byte) (i : Byte) (n m : Nat) (rest : List Entry),
    s.blk.fault = none → s.blk.phs = false → s.blk.q = .msg p i n :: rest →
    s.par.retryMax = .fin m → 1 + m ≤ n →
    ∃ t, t = { s with
        host := { s.host with exhausted := some i }
        out := { ret := [.arm .exhausted], evt := [.retryExhausted i] } } ∧
      exec .tExhausted s = .next t ∧ exec .tick s = .next t

/-- R198: with an empty queue a pending ack goes out alone and is cleared. -/
def Obligations.BareAckGoesOutAlone : Prop :=
  ∀ s : State, s.blk.fault = none → s.blk.phs = false → s.blk.q = [] → s.blk.pack ≠ 0#8 →
    ∃ t, t = { s with
        blk := { s.blk with pack := 0#8 }
        out := { ret := [.arm .bareack], tx := [[0x55, 0xAA, 0x00, s.blk.pack, 0x00, 0x00, 0x00, s.blk.pack, 0xCC, 0x33]] } } ∧
      exec .tBareack s = .next t ∧ exec .tick s = .next t

/-- R199: with nothing pending a TICK does nothing. -/
def Obligations.IdleTickDoesNothing : Prop :=
  ∀ s : State, s.blk.fault = none → s.blk.phs = false → s.blk.q = [] → s.blk.pack = 0#8 →
    ∃ t, t = { s with out := { ret := [.arm .idle] } } ∧ exec .tIdle s = .next t ∧ exec .tick s = .next t

/-- R36 (b), R190 (derived there): a TICK is some number of T_COLLAPSE passes and then exactly one other arm; running them one
by one leaves the same machine. R35 (f) keeps ENCODE from faulting. -/
def Obligations.TickIsCollapsesThenOneArm : Prop :=
  ∀ s : State, s.blk.fault = none → PayloadsFit s.blk.q →
    ∃ k i t, i ∈ tickArms ∧ i ≠ .tCollapse ∧
      execAll (List.replicate k .tCollapse ++ [i]) s = some t ∧ exec .tick s = .next t

/-- R200 (derived there), R196 (decision D21): a TICK puts at most one frame on TX and none in arm T_EXHAUSTED; where no
HandshakeAck is pending, a pending ack rides on the frame that goes out and is cleared, and waits only in arm
T_EXHAUSTED. -/
def Obligations.PendingAckRidesTheOneFrame : Prop :=
  ∀ s : State, s.blk.fault = none → PayloadsFit s.blk.q →
    ∃ t, exec .tick s = .next t ∧ t.out.tx.length ≤ 1 ∧ t.blk.fault = none ∧
      (t.out.ret = [.arm .exhausted] → t.out.tx = []) ∧
      (s.blk.phs = false → s.blk.pack ≠ 0#8 →
        (∃ f, t.out.tx = [f] ∧ f.getD 3 0#8 = s.blk.pack ∧ t.blk.pack = 0#8) ∨
        (t.out.ret = [.arm .exhausted] ∧ t.out.tx = [] ∧ t.blk.pack = s.blk.pack))

/-- R197 (decisions D9, D25): with RETRY_MAX = m a message at the head goes out on exactly `1 + m` ticks, under one id; every
later tick only raises the event. -/
def Obligations.RetryBoundIsKept : Prop :=
  ∀ (s : State) (p : List Byte) (rest : List Entry) (m : Nat),
    s.blk.fault = none → s.blk.phs = false → s.blk.q = .msg p 0#8 0 :: rest → p.length ≤ 1014 → s.blk.nid ≠ 0#8 →
    s.par.retryMax = .fin m →
    (∀ k, k < 1 + m → ∃ t u, execAll (List.replicate k .tick) s = some t ∧ exec .tick t = .next u ∧
      u.out.ret = [.arm .msg] ∧ u.out.tx.length = 1 ∧ u.blk.q = .msg p s.blk.nid (k + 1) :: rest) ∧
    (∀ k, 1 + m ≤ k → ∃ t, execAll (List.replicate k .tick) s = some t ∧
      exec .tick t = .next { t with
        host := { t.host with exhausted := some s.blk.nid }
        out := { ret := [.arm .exhausted], evt := [.retryExhausted s.blk.nid] } })

/-- R195, R202 (derived there): the ids assigned one after the other from 1 are 1, 2, …, 255, 1, …: the wrap skips 0. -/
def Obligations.IdsRunOneTo255 : Prop :=
  ∀ n : Nat, (nextId^[n]) 1#8 = BitVec.ofNat 8 (n % 255 + 1) ∧ (nextId^[n]) 1#8 ≠ 0#8

/-- R189, R194 (derived there): whatever instruction runs, a message in flight stays at the head with its id and payload, and
nothing behind it is lost or reordered, unless the instruction is its acknowledgement or clears the queue; and every frame
a TICK emits meanwhile is the HandshakeAck or carries that message. -/
def Obligations.InFlightMessageStaysAtTheHead : Prop :=
  ∀ (s t : State) (i : Instr) (p : List Byte) (id : Byte) (n : Nat) (rest : List Entry),
    s.blk.q = .msg p id n :: rest → id ≠ 0#8 → mayRelease id i = false → exec i s = .next t →
    (∃ n' more, n ≤ n' ∧ t.blk.q = .msg p id n' :: (rest ++ more)) ∧
    (i = .tick → ∀ f ∈ t.out.tx,
      f = [0x55, 0xAA, 0x02, 0x00, 0x00, 0x00, 0x00, 0x02, 0xCC, 0x33] ∨
      encodeFrame 0x00#8 s.blk.pack id p = some f)

/-! ## Faults, frames, independence -/

/-- R225, R28 (decision D13): while FAULT = 1 every operation but RESET answers `Rejected(Faulted)` and changes nothing. The
second clause is the model's choice where R225, which lists operations, is silent: every instruction of any kind but RESET
answers a next state with the block unchanged, an arm taken by itself (log 5), an emitted frame (log 6), a received form
(logs 1, 24 and 26). -/
def Obligations.FaultedBlockRefusesAllButReset : Prop :=
  ∀ (s : State) (c : Cause) (i : Instr), s.blk.fault = some c → i ≠ .reset →
    (isOperation i = true → exec i s = .next { s with out := { ret := [.rejected .faulted] } }) ∧
    (∃ t, exec i s = .next t ∧ t.blk = s.blk)

/-- R220, R221 (decision D13), R190: from a safe state, the only step that sets FAULT is an ENCODE command with an oversize
payload, and it changes nothing else of the block and raises the event. -/
def Obligations.OnlyAnOversizeEncodeFaults : Prop :=
  ∀ s t : State, Inv s → s.blk.fault = none → step s = .next t → t.blk.fault ≠ none →
    ∃ bytes rest kind ack id p, s.inbox = .command bytes :: rest ∧
      decodeCommand bytes = .ok (.encode kind ack id p) ∧ 1014 < p.length ∧
      t.blk = { s.blk with fault := some .payloadTooLong } ∧ t.out.evt = [.faulted .payloadTooLong]

/-- R32 (derived there, decision D18): each operation completes and writes only the elements its row marks `w`; the parameters
and the inputs still pending are never written, and of the host only its list of presented packets is, by RX_PUSH alone,
and the event it has taken, by TICK alone. -/
def Obligations.AccessTableHolds : Prop :=
  ∀ (s : State) (i : Instr), isOperation i = true →
    ∃ t, exec i s = .next t ∧ t.par = s.par ∧ t.inbox = s.inbox ∧
      (∃ ps e, t.host = { s.host with todo := s.host.todo ++ ps, exhausted := e } ∧
        ((∀ c, i ≠ .rxPush c) → ps = []) ∧ (i ≠ .tick → e = s.host.exhausted)) ∧
      (t.blk.rb = s.blk.rb ∨ (∃ c, i = .rxPush c) ∨ i = .rxFlush ∨ i = .reset) ∧
      (t.blk.q = s.blk.q ∨ (∃ p, i = .enqMsg p) ∨ i = .enqHb ∨ (∃ a, i = .ackRx a) ∨ i = .tick ∨ i = .clear ∨
        i = .reset) ∧
      (t.blk.nid = s.blk.nid ∨ i = .tick ∨ i = .clear ∨ i = .reset) ∧
      (t.blk.pack = s.blk.pack ∨ (∃ a, i = .setAck a) ∨ i = .tick ∨ i = .clear ∨ i = .reset) ∧
      (t.blk.phs = s.blk.phs ∨ i = .setHsack ∨ i = .tick ∨ i = .clear ∨ i = .reset) ∧
      (PayloadsFit s.blk.q → t.blk.fault = s.blk.fault ∨ (∃ k a n p, i = .encode k a n p) ∨ i = .reset)

/-- R233, R279 (derived there): what an operation does to the block and puts on the ports depends on the block and the
parameters alone: not on the connection state, nor on anything else the host holds, nor on what is pending. -/
def Obligations.BlockIgnoresTheHost : Prop :=
  ∀ (s u : State) (i : Instr), isOperation i = true → s.blk = u.blk → s.par = u.par →
    ∃ t v, exec i s = .next t ∧ exec i u = .next v ∧ t.blk = v.blk ∧ t.out = v.out

/-- R30 (d) and log 2: the record of what the ports carried out is read by nothing: no instruction and no step behaves
differently for it. -/
def Obligations.PortRecordIsNotRead : Prop :=
  ∀ (s : State) (o : Out), (∀ i, exec i { s with out := o } = exec i s) ∧
    (∀ t, step s = .next t → step { s with out := o } = .next t)

/-! ## Invariants -/

/-- R35 (derived there), R139, R24, and the host's part (log 12): every step from a safe state leaves a safe state. -/
def Obligations.EveryStepKeepsTheInvariant : Prop :=
  ∀ s t : State, Inv s → step s = .next t → Inv t

/-- R34, R35: the state after reset is safe; its block holds the values of R34 (decisions D11, D12, D13). The host's
part is the model's choice: the spec gives the host no reset values, and the safety of the host here rests on those of log
12 (DESIGN CHOICE). -/
def Obligations.ResetStateIsSafe : Prop :=
  Inv State.reset ∧
    State.reset.blk = { rb := [], q := [], nid := 1#8, pack := 0#8, phs := false, fault := none }

/-! ## Received forms: the host's actions -/

/-- R156, R154, R158 (decisions D7, D24): for a DATA packet the host refreshes its liveness, issues ACK_RX for a nonzero ack
and SET_ACK for the id, always; it delivers the payload unless the id is the last-accepted one, which it then is: the same
id twice in a row is delivered once. -/
def Obligations.DataIsAckedAndDeliveredOnce : Prop :=
  ∀ (s : State) (a i : Byte) (p : List Byte), s.blk.fault = none → i ≠ 0#8 →
    (∃ t, exec (.data a i p) s = .next t ∧
      t.blk = { s.blk with q := ackedQueue a s.blk.q, pack := i } ∧
      t.host = { s.host with
        lastRx := s.host.now, deadline := limitAdd s.par.livenessMs s.host.now, lastId := some i } ∧
      t.out.note = (if s.host.lastId = some i then [] else [.messageReceived p]) ∧
      t.out.tx = [] ∧ t.par = s.par ∧ t.inbox = s.inbox) ∧
    (∀ (a' : Byte) (p' : List Byte), ∃ t u, exec (.data a i p) s = .next t ∧ exec (.data a' i p') t = .next u ∧
      u.out.note = [])

/-- R157, R154, R158 (decision D24): for a CTRL0 packet the host refreshes its liveness and issues ACK_RX for a nonzero ack; a
nonzero ack while not Connected resumes the connection; the payload is delivered to nobody and no SET_ACK is issued. -/
def Obligations.Ctrl0RefreshesOrResumes : Prop :=
  ∀ (s : State) (a : Byte) (p : List Byte), s.blk.fault = none →
    ∃ t, exec (.ctrl0 a p) s = .next t ∧
      t.blk = { s.blk with q := ackedQueue a s.blk.q } ∧ t.out.tx = [] ∧ t.par = s.par ∧ t.inbox = s.inbox ∧
      (a ≠ 0#8 → s.host.conn ≠ .connected →
        t.host = { s.host with
          lastRx := s.host.now, deadline := limitAdd s.par.livenessMs s.host.now
          conn := .connected, sendTimer := true, hbTimer := true, everConnected := true } ∧
        t.out.note = [.connectSucceeded true]) ∧
      (a = 0#8 ∨ s.host.conn = .connected →
        t.host = { s.host with lastRx := s.host.now, deadline := limitAdd s.par.livenessMs s.host.now } ∧
        t.out.note = [])

/-- R155, R152, R154, R158 (decision D24; logs 11, 13 and 25): a handshake within the minimum spacing of the last accepted one
causes nothing at all; any other makes the host Connected with one HandshakeAck pending, after a full reset where it was
Connected. -/
def Obligations.HandshakeIsDebouncedOrAccepted : Prop :=
  ∀ (s : State) (a i : Byte) (p : List Byte),
    (∀ last, s.host.lastHs = some last → s.host.now < last + s.par.handshakeSpacing →
      exec (.handshake a i p) s = .next { s with out := {} }) ∧
    (s.blk.fault = none → (∀ last, s.host.lastHs = some last → last + s.par.handshakeSpacing ≤ s.host.now) →
      ∃ t, exec (.handshake a i p) s = .next t ∧
        t.blk = (if s.host.conn = .connected
          then { s.blk with q := [], pack := 0#8, nid := 1#8, phs := true }
          else { s.blk with q := ackedQueue a s.blk.q, phs := true }) ∧
        t.host = { s.host with
          conn := .connected, sendTimer := true, hbTimer := true, everConnected := true
          lastId := if s.host.conn = .connected then none else s.host.lastId
          exhausted := if s.host.conn = .connected then none else s.host.exhausted
          lastHs := some s.host.now, lastRx := s.host.now
          deadline := limitAdd (limitAdd s.par.livenessMs s.host.now) s.par.livenessExt } ∧
        t.out.note = [.connectSucceeded false] ∧ t.out.tx = [] ∧ t.par = s.par ∧ t.inbox = s.inbox)

/-- R159, R160 (decision D7; log 14): a HANDSHAKE_ACK packet refreshes liveness, issues ACK_RX for a nonzero ack, and completes
the handshake of a host that awaits it; an UNKNOWN packet is ignored entirely. -/
def Obligations.HandshakeAckCompletesAndUnknownIsIgnored : Prop :=
  ∀ (s : State) (k a i : Byte) (p : List Byte), s.blk.fault = none →
    (∃ t, exec (.handshakeAck a i p) s = .next t ∧
      t.blk = { s.blk with q := ackedQueue a s.blk.q } ∧ t.out.tx = [] ∧ t.par = s.par ∧ t.inbox = s.inbox ∧
      (s.host.conn = .awaitingHandshake →
        t.host = { s.host with
          lastRx := s.host.now, deadline := limitAdd s.par.livenessMs s.host.now
          conn := .connected, sendTimer := true, hbTimer := true, everConnected := true } ∧
        t.out.note = [.connectSucceeded false]) ∧
      (s.host.conn ≠ .awaitingHandshake →
        t.host = { s.host with lastRx := s.host.now, deadline := limitAdd s.par.livenessMs s.host.now } ∧
        t.out.note = [])) ∧
    exec (.unknown k a i p) s = .next { s with out := {} }

/-- R62, R152, R161 to R163, R165, R167 (logs 16, 19, 24 to 26): a disconnect, for whichever cause (the request, an error
of the byte stream, the answer to an exhausted message, silence past the deadline), clears all pending state of the block
and of the host, and no timer expiry that was still pending acts on the cleared state; while already disconnected it
changes nothing but the clock, where time passes, and the event, where that is what it answers; with no event to answer
the host does nothing. A faulted block keeps its state, which only RESET clears (logs 24 and 26). -/
def Obligations.NoStaleTickAfterDisconnect : Prop :=
  (∀ (s : State) (e : HostEvent) (why : Why) (ms : Nat) (rest : List Input), HostInv s.host →
    s.inbox = .host e :: .sendTimer :: .hbTimer :: rest →
    (e = .disconnect ∧ why = .request ∧ ms = 0) ∨ (e = .ioError ∧ why = .ioError ∧ ms = 0) ∨
      (e = .answerExhausted ∧ why = .exhausted ∧ ms = 0 ∧ s.host.exhausted ≠ none) ∨
      (e = .elapse ms ∧ why = .liveness ∧ s.par.direct = false ∧
        ∃ d, s.host.deadline = .fin d ∧ d < s.host.now + ms) →
    ∃ t u v, step s = .next t ∧ step t = .next u ∧ step u = .next v ∧
      t.blk = (if s.host.conn = .disconnected ∨ s.blk.fault ≠ none then s.blk
        else { s.blk with q := [], pack := 0#8, phs := false, nid := 1#8 }) ∧
      t.host.conn = .disconnected ∧ t.host.sendTimer = false ∧ t.host.hbTimer = false ∧
      t.host.now = s.host.now + ms ∧ (e = .answerExhausted → t.host.exhausted = none) ∧
      (s.host.conn = .disconnected →
        t.host = { s.host with now := s.host.now + ms, exhausted := t.host.exhausted } ∧ t.out = {} ∧
        (e ≠ .answerExhausted → t.host.exhausted = s.host.exhausted)) ∧
      (s.host.conn ≠ .disconnected → t.host.lastId = none ∧ t.host.exhausted = none ∧
        t.out.note = [if s.host.everConnected then .disconnected else .connectFailed why]) ∧
      v.blk = t.blk ∧ v.host = t.host ∧ v.out = {} ∧ v.inbox = rest) ∧
  (∀ (s : State) (rest : List Input), s.inbox = .host .answerExhausted :: rest → s.host.exhausted = none →
    step s = .next { s with inbox := rest, out := {} })

/-- R169, R264 (decisions D12, D15; log 15) and R161 (decision D27; logs 15 and 16): on a block that is not faulted
`connect()` clears the block and its buffer, then writes one handshake and awaits the answer, or in direct mode is
Connected at once; that it forgets an unanswered event is the model's choice (log 25). On any block, time passing beyond
the liveness deadline of a host that is not Disconnected ends the connection, except in direct mode (I10, the spec's
ruling), and a faulted block then keeps its state (the model's choice, logs 24 and 26); any other time passing (up to the deadline,
with no deadline set, while Disconnected, in direct mode) changes only the clock; `isConnected()` answers whether the host
is Connected and changes nothing. -/
def Obligations.ConnectAndSilenceActOnTheConnection : Prop :=
  ∀ (s : State) (rest : List Input),
    (s.inbox = .host .connect :: rest → s.blk.fault = none →
      ∃ t, step s = .next t ∧ t.par = s.par ∧ t.inbox = rest ∧
        t.blk = { rb := [], q := [], nid := 1#8, pack := 0#8, phs := false, fault := none } ∧
        t.host.lastRx = s.host.now ∧ t.host.deadline = limitAdd s.par.livenessMs s.host.now ∧
        t.host.lastId = none ∧ t.host.todo = s.host.todo ∧ t.host.exhausted = none ∧
        (s.par.direct = false → t.host.conn = .awaitingHandshake ∧ t.host.sendTimer = false ∧ t.host.hbTimer = false ∧
          t.out.tx = [[0x55, 0xAA, 0x01, 0x00, 0x00, 0x00, 0x00, 0x01, 0xCC, 0x33]] ∧
          t.out.note = [.connectStarted]) ∧
        (s.par.direct = true → t.host.conn = .connected ∧ t.host.sendTimer = true ∧ t.host.hbTimer = true ∧
          t.out.tx = [] ∧ t.out.note = [.connectStarted, .connectSucceeded false])) ∧
    (∀ ms, s.inbox = .host (.elapse ms) :: rest →
      (s.par.direct = true ∨ s.host.conn = .disconnected ∨ s.host.deadline = .inf ∨
          (∃ d, s.host.deadline = .fin d ∧ s.host.now + ms ≤ d) →
        step s = .next { s with inbox := rest, host := { s.host with now := s.host.now + ms }, out := {} }) ∧
      (∀ d, s.par.direct = false → s.host.conn ≠ .disconnected → s.host.deadline = .fin d → d < s.host.now + ms →
        ∃ t, step s = .next t ∧ t.par = s.par ∧ t.inbox = rest ∧
          t.blk = (if s.blk.fault ≠ none then s.blk
            else { s.blk with q := [], pack := 0#8, phs := false, nid := 1#8 }) ∧
          t.host.conn = .disconnected ∧ t.host.sendTimer = false ∧ t.host.hbTimer = false ∧ t.host.lastId = none ∧
          t.host.now = s.host.now + ms ∧
          t.out.note = [if s.host.everConnected then .disconnected else .connectFailed .liveness])) ∧
    (s.inbox = .host .isConnected :: rest →
      step s = .next { s with inbox := rest, out := { note := [.isConnected (decide (s.host.conn = .connected))] } })
end

