-- ==== Sys2Proof/Laws/State.lean ====
section
/-! SUPPORT. The small lemmas of the state's named updates: one per field per update, true by rfl, so that no later proof
unfolds a record update; the constants' values; and the outcomes of `perform`. -/

namespace Sys2Proof.Machine

/-! ## Constants (00_scope.md R8) -/

@[simp] theorem maxPayload_eq : Config.maxPayload = 1014 := rfl
@[simp] theorem overhead_eq : Config.overhead = 10 := rfl
@[simp] theorem hdrLen_eq : Config.hdrLen = 7 := rfl
@[simp] theorem sync0_eq : Config.sync0 = 0x55#8 := rfl
@[simp] theorem sync1_eq : Config.sync1 = 0xAA#8 := rfl
@[simp] theorem trailer0_eq : Config.trailer0 = 0xCC#8 := rfl
@[simp] theorem trailer1_eq : Config.trailer1 = 0x33#8 := rfl
@[simp] theorem kindData_eq : Config.kindData = 0x00#8 := rfl
@[simp] theorem kindHandshake_eq : Config.kindHandshake = 0x01#8 := rfl
@[simp] theorem kindHandshakeAck_eq : Config.kindHandshakeAck = 0x02#8 := rfl

/-! ## Outputs -/

@[simp] theorem outAppend_empty_left (o : Out) : outAppend {} o = o := by cases o; simp [outAppend]
@[simp] theorem outAppend_empty_right (o : Out) : outAppend o {} = o := by cases o; simp [outAppend]
@[simp] theorem outAppend_ret (a b : Out) : (outAppend a b).ret = a.ret ++ b.ret := rfl
@[simp] theorem outAppend_tx (a b : Out) : (outAppend a b).tx = a.tx ++ b.tx := rfl
@[simp] theorem outAppend_rx (a b : Out) : (outAppend a b).rx = a.rx ++ b.rx := rfl
@[simp] theorem outAppend_evt (a b : Out) : (outAppend a b).evt = a.evt ++ b.evt := rfl
@[simp] theorem outAppend_note (a b : Out) : (outAppend a b).note = a.note ++ b.note := rfl

@[simp] theorem answer_ret (r : Result) : (answer r).ret = [r] := rfl
@[simp] theorem answer_tx (r : Result) : (answer r).tx = [] := rfl
@[simp] theorem answer_rx (r : Result) : (answer r).rx = [] := rfl
@[simp] theorem answer_evt (r : Result) : (answer r).evt = [] := rfl
@[simp] theorem answer_note (r : Result) : (answer r).note = [] := rfl

/-! ## `quiet` -/

@[simp] theorem quiet_par (s : State) : (quiet s).par = s.par := rfl
@[simp] theorem quiet_blk (s : State) : (quiet s).blk = s.blk := rfl
@[simp] theorem quiet_host (s : State) : (quiet s).host = s.host := rfl
@[simp] theorem quiet_inbox (s : State) : (quiet s).inbox = s.inbox := rfl
@[simp] theorem quiet_out (s : State) : (quiet s).out = {} := rfl

/-! ## `present` -/

@[simp] theorem present_nil (h : HostState) : present h [] = h := by cases h; simp [present]
@[simp] theorem present_conn (h : HostState) (ps : List Packet) : (present h ps).conn = h.conn := rfl
@[simp] theorem present_lastId (h : HostState) (ps : List Packet) : (present h ps).lastId = h.lastId := rfl
@[simp] theorem present_now (h : HostState) (ps : List Packet) : (present h ps).now = h.now := rfl
@[simp] theorem present_lastRx (h : HostState) (ps : List Packet) : (present h ps).lastRx = h.lastRx := rfl
@[simp] theorem present_deadline (h : HostState) (ps : List Packet) : (present h ps).deadline = h.deadline := rfl
@[simp] theorem present_lastHs (h : HostState) (ps : List Packet) : (present h ps).lastHs = h.lastHs := rfl
@[simp] theorem present_sendTimer (h : HostState) (ps : List Packet) : (present h ps).sendTimer = h.sendTimer := rfl
@[simp] theorem present_hbTimer (h : HostState) (ps : List Packet) : (present h ps).hbTimer = h.hbTimer := rfl
@[simp] theorem present_everConnected (h : HostState) (ps : List Packet) :
    (present h ps).everConnected = h.everConnected := rfl
@[simp] theorem present_todo (h : HostState) (ps : List Packet) : (present h ps).todo = h.todo ++ ps := rfl
@[simp] theorem present_exhausted (h : HostState) (ps : List Packet) : (present h ps).exhausted = h.exhausted := rfl

/-! ## `hear` -/

@[simp] theorem hear_nil (h : HostState) : hear h [] = h := rfl
@[simp] theorem hear_exhausted_event (h : HostState) (id : Byte) :
    hear h [.retryExhausted id] = { h with exhausted := some id } := rfl
@[simp] theorem hear_faulted_event (h : HostState) (c : Cause) : hear h [.faulted c] = h := rfl

/-- Hearing events changes one field alone. -/
theorem hear_eq (h : HostState) (es : List Event) : hear h es = { h with exhausted := (hear h es).exhausted } := by
  induction es generalizing h with
  | nil => rfl
  | cons e es ih => cases e <;> exact ih _

@[simp] theorem hear_conn (h : HostState) (es : List Event) : (hear h es).conn = h.conn := by rw [hear_eq]
@[simp] theorem hear_lastId (h : HostState) (es : List Event) : (hear h es).lastId = h.lastId := by rw [hear_eq]
@[simp] theorem hear_now (h : HostState) (es : List Event) : (hear h es).now = h.now := by rw [hear_eq]
@[simp] theorem hear_lastRx (h : HostState) (es : List Event) : (hear h es).lastRx = h.lastRx := by rw [hear_eq]
@[simp] theorem hear_deadline (h : HostState) (es : List Event) : (hear h es).deadline = h.deadline := by rw [hear_eq]
@[simp] theorem hear_lastHs (h : HostState) (es : List Event) : (hear h es).lastHs = h.lastHs := by rw [hear_eq]
@[simp] theorem hear_sendTimer (h : HostState) (es : List Event) : (hear h es).sendTimer = h.sendTimer := by rw [hear_eq]
@[simp] theorem hear_hbTimer (h : HostState) (es : List Event) : (hear h es).hbTimer = h.hbTimer := by rw [hear_eq]
@[simp] theorem hear_everConnected (h : HostState) (es : List Event) :
    (hear h es).everConnected = h.everConnected := by rw [hear_eq]
@[simp] theorem hear_todo (h : HostState) (es : List Event) : (hear h es).todo = h.todo := by rw [hear_eq]

/-! ## `issue` -/

@[simp] theorem issue_par (op : BlockOp) (s : State) : (issue op s).par = s.par := rfl
@[simp] theorem issue_blk (op : BlockOp) (s : State) : (issue op s).blk = (op s.par s.blk).1 := rfl
@[simp] theorem issue_host (op : BlockOp) (s : State) :
    (issue op s).host = hear (present s.host (op s.par s.blk).2.rx) (op s.par s.blk).2.evt := rfl
@[simp] theorem issue_inbox (op : BlockOp) (s : State) : (issue op s).inbox = s.inbox := rfl
@[simp] theorem issue_out (op : BlockOp) (s : State) :
    (issue op s).out = outAppend s.out (op s.par s.blk).2 := rfl

/-! ## The host's updates -/

@[simp] theorem notify_par (n : Note) (s : State) : (notify n s).par = s.par := rfl
@[simp] theorem notify_blk (n : Note) (s : State) : (notify n s).blk = s.blk := rfl
@[simp] theorem notify_host (n : Note) (s : State) : (notify n s).host = s.host := rfl
@[simp] theorem notify_inbox (n : Note) (s : State) : (notify n s).inbox = s.inbox := rfl
@[simp] theorem notify_out (n : Note) (s : State) : (notify n s).out = outAppend s.out { note := [n] } := rfl

@[simp] theorem hostRefresh_par (s : State) : (hostRefresh s).par = s.par := rfl
@[simp] theorem hostRefresh_blk (s : State) : (hostRefresh s).blk = s.blk := rfl
@[simp] theorem hostRefresh_host (s : State) :
    (hostRefresh s).host =
      { s.host with lastRx := s.host.now, deadline := limitAdd s.par.livenessMs s.host.now } := rfl
@[simp] theorem hostRefresh_inbox (s : State) : (hostRefresh s).inbox = s.inbox := rfl
@[simp] theorem hostRefresh_out (s : State) : (hostRefresh s).out = s.out := rfl

@[simp] theorem hostExtend_par (s : State) : (hostExtend s).par = s.par := rfl
@[simp] theorem hostExtend_blk (s : State) : (hostExtend s).blk = s.blk := rfl
@[simp] theorem hostExtend_host (s : State) :
    (hostExtend s).host = { s.host with deadline := limitAdd s.host.deadline s.par.livenessExt } := rfl
@[simp] theorem hostExtend_inbox (s : State) : (hostExtend s).inbox = s.inbox := rfl
@[simp] theorem hostExtend_out (s : State) : (hostExtend s).out = s.out := rfl

@[simp] theorem becomeConnected_par (r : Bool) (s : State) : (becomeConnected r s).par = s.par := rfl
@[simp] theorem becomeConnected_blk (r : Bool) (s : State) : (becomeConnected r s).blk = s.blk := rfl
@[simp] theorem becomeConnected_host (r : Bool) (s : State) :
    (becomeConnected r s).host =
      { s.host with conn := .connected, sendTimer := true, hbTimer := true, everConnected := true } := rfl
@[simp] theorem becomeConnected_inbox (r : Bool) (s : State) : (becomeConnected r s).inbox = s.inbox := rfl
@[simp] theorem becomeConnected_out (r : Bool) (s : State) :
    (becomeConnected r s).out = outAppend s.out { note := [.connectSucceeded r] } := rfl

@[simp] theorem fullReset_par (s : State) : (fullReset s).par = s.par := by
  unfold fullReset; dsimp only; split <;> rfl
/-- The block after a full reset is what CLEAR leaves, also where the host withholds a CLEAR that would be refused. -/
@[simp] theorem fullReset_blk (s : State) : (fullReset s).blk = (opClear s.par s.blk).1 := by
  unfold fullReset; dsimp only; split
  · rename_i h; simp [opClear, gated, h]
  · rfl
@[simp] theorem fullReset_inbox (s : State) : (fullReset s).inbox = s.inbox := by
  unfold fullReset; dsimp only; split <;> rfl
@[simp] theorem fullReset_out (s : State) :
    (fullReset s).out = if faulted s.blk then s.out else outAppend s.out (opClear s.par s.blk).2 := by
  unfold fullReset; dsimp only; split <;> rfl

/-! ## A whole step's operation -/

/-- A block operation always answers a next state, the one `afterOp` describes. -/
theorem perform_eq (op : BlockOp) (s : State) :
    perform op s = .next (afterOp s (op s.par s.blk).1 (op s.par s.blk).2) := by
  simp [perform, issue, afterOp, present, quiet]

@[simp] theorem afterOp_par (s : State) (b : Block) (o : Out) : (afterOp s b o).par = s.par := rfl
@[simp] theorem afterOp_blk (s : State) (b : Block) (o : Out) : (afterOp s b o).blk = b := rfl
@[simp] theorem afterOp_inbox (s : State) (b : Block) (o : Out) : (afterOp s b o).inbox = s.inbox := rfl
@[simp] theorem afterOp_out (s : State) (b : Block) (o : Out) : (afterOp s b o).out = o := rfl
@[simp] theorem afterOp_host (s : State) (b : Block) (o : Out) :
    (afterOp s b o).host = hear (present s.host o.rx) o.evt := rfl

end Sys2Proof.Machine
end

