-- ==== Sys2Proof/Laws/Codec.lean ====
section
/-! SUPPORT. The small lemmas of the byte-sequence functions: the 16-bit count's halves, XOR, and the layout of a built
frame. -/

namespace Sys2Proof

@[simp] theorem xorAll_nil : xorAll [] = 0#8 := rfl

theorem foldl_xor (l : List Byte) (a : Byte) : l.foldl (fun c b => c ^^^ b) a = a ^^^ xorAll l := by
  induction l generalizing a with
  | nil => simp
  | cons x xs ih => simp only [List.foldl_cons, xorAll]; rw [ih, ih]; simp [BitVec.xor_assoc]

theorem xorAll_cons (x : Byte) (l : List Byte) : xorAll (x :: l) = x ^^^ xorAll l := by
  rw [xorAll, List.foldl_cons, foldl_xor]; simp

theorem xorAll_append (l m : List Byte) : xorAll (l ++ m) = xorAll l ^^^ xorAll m := by
  induction l with
  | nil => simp
  | cons x xs ih => simp [xorAll_cons, ih, BitVec.xor_assoc]

theorem be16_lt (h l : Byte) : be16 h l < 65536 := by
  have := h.isLt; have := l.isLt; unfold be16; omega

/-- `be16` rebuilds a 16-bit value from `hi8` and `lo8` exactly (R116). -/
theorem be16_hi8_lo8 {n : Nat} (h : n < 65536) : be16 (hi8 n) (lo8 n) = n := by
  simp [be16, hi8, lo8]; omega

theorem hi8_be16 (h l : Byte) : hi8 (be16 h l) = h := by
  have := h.isLt; have := l.isLt
  apply BitVec.eq_of_toNat_eq; simp [hi8, be16]; omega

theorem lo8_be16 (h l : Byte) : lo8 (be16 h l) = l := by
  have := h.isLt; have := l.isLt
  apply BitVec.eq_of_toNat_eq; simp [lo8, be16]; omega

@[simp] theorem buildFrame_length (kind ack id : Byte) (p : List Byte) :
    (buildFrame kind ack id p).length = 10 + p.length := by simp [buildFrame]; omega

/-- A built frame, written out (R81). -/
theorem buildFrame_eq (kind ack id : Byte) (p : List Byte) :
    buildFrame kind ack id p =
      0x55#8 :: 0xAA#8 :: kind :: ack :: id :: hi8 p.length :: lo8 p.length ::
        (p ++ [kind ^^^ (ack ^^^ (id ^^^ (hi8 p.length ^^^ (lo8 p.length ^^^ xorAll p)))), 0xCC#8, 0x33#8]) := by
  simp [buildFrame, xorAll_cons, Machine.sync0_eq, Machine.sync1_eq, Machine.trailer0_eq, Machine.trailer1_eq]

theorem declaredLen_buildFrame (kind ack id : Byte) {p : List Byte} (h : p.length < 65536) :
    declaredLen (buildFrame kind ack id p) = p.length := by
  rw [buildFrame_eq]; simpa [declaredLen, byteAt] using be16_hi8_lo8 h

theorem syncAtFront_buildFrame (kind ack id : Byte) (p : List Byte) :
    syncAtFront (buildFrame kind ack id p) = true := by
  rw [buildFrame_eq]; rfl

/-- VERIFY accepts exactly the slices that pass all four tests (R111). -/
theorem verifyFrame_ok_iff (l : List Byte) : verifyFrame l = .ok ↔
    (10 ≤ l.length ∧ declaredLen l ≤ 1014 ∧ l.length = 10 + declaredLen l) ∧
    syncAtFront l = true ∧ trailerAt l (declaredLen l) = true ∧
    xorAll (slice l 2 (7 + declaredLen l)) = byteAt l (7 + declaredLen l) := by
  unfold verifyFrame
  by_cases h1 : l.length < Config.overhead
  · rw [if_pos h1]; simp at h1 ⊢; omega
  · rw [if_neg h1]
    by_cases h2 : declaredLen l > Config.maxPayload ∨ l.length ≠ frameLen l
    · rw [if_pos h2]; simp [frameLen] at h2 ⊢; omega
    · rw [if_neg h2]
      simp [frameLen] at h1 h2
      cases hs : syncAtFront l <;> cases ht : trailerAt l (declaredLen l) <;> simp
      omega

theorem decodePacket_eq_some (l : List Byte) (p : Packet) :
    decodePacket l = some p ↔ verifyFrame l = .ok ∧ packetFields l = p := by
  unfold decodePacket; cases verifyFrame l <;> simp

/-- A packet DECODE returns fits a frame (R80, R113). -/
theorem decodePacket_payload_fits {l : List Byte} {p : Packet} (h : decodePacket l = some p) :
    p.payload.length ≤ 1014 := by
  obtain ⟨h1, rfl⟩ := (decodePacket_eq_some l p).1 h
  have := ((verifyFrame_ok_iff l).1 h1).1
  simp [packetFields, slice]; omega

theorem slice_length (s : List Byte) (i j : Nat) : (slice s i j).length = min (j - i) (s.length - i) := by
  simp [slice]

theorem seqBytes_length (s : List Byte) : (seqBytes s).length = 2 + s.length := by
  simp [seqBytes]; omega

end Sys2Proof
end

