-- ==== Sys2Proof/Laws/Ops.lean ====
section
/-! SUPPORT. What each shared operation can do, said once: the gate, the transmission, the fault, the arms' guards, and the
host's composite operations. -/

namespace Sys2Proof.Machine

theorem faulted_eq_false {b : Block} (h : b.fault = none) : faulted b = false := by simp [faulted, h]

theorem faulted_eq_true {b : Block} {c : Cause} (h : b.fault = some c) : faulted b = true := by simp [faulted, h]

/-- While FAULT = 0 the gate is open (R225). -/
theorem gated_of_no_fault {op : BlockOp} {par : Params} {b : Block} (h : b.fault = none) :
    gated op par b = op par b := by simp [gated, faulted_eq_false h]

/-- While FAULT = 1 every gated operation is refused and changes nothing (R225). -/
theorem gated_of_fault {op : BlockOp} {par : Params} {b : Block} {c : Cause} (h : b.fault = some c) :
    gated op par b = (b, answer (.rejected .faulted)) := by simp [gated, faulted_eq_true h]

theorem encodeFrame_fits {kind ack id : Byte} {p : List Byte} (h : p.length ≤ 1014) :
    encodeFrame kind ack id p = some (buildFrame kind ack id p) := by
  simp [encodeFrame, Nat.not_lt.mpr h]

theorem encodeFrame_oversize {kind ack id : Byte} {p : List Byte} (h : 1014 < p.length) :
    encodeFrame kind ack id p = none := by
  simp [encodeFrame, h]

/-- A transmission whose payload fits puts one frame on TX and leaves `after` (R51). -/
theorem transmit_fits {before after : Block} {r : Result} {kind ack id : Byte} {p : List Byte}
    (h : p.length ≤ 1014) :
    transmit before after r kind ack id p = (after, { ret := [r], tx := [buildFrame kind ack id p] }) := by
  simp [transmit, encodeFrame_fits h]

/-- A transmission whose payload does not fit leaves the block before the operation, faulted (R14, R221). -/
theorem transmit_oversize {before after : Block} {r : Result} {kind ack id : Byte} {p : List Byte}
    (h : 1014 < p.length) :
    transmit before after r kind ack id p = raiseFault .payloadTooLong before := by
  simp [transmit, encodeFrame_oversize h]

/-- A transmission does one of two things. -/
theorem transmit_cases (before after : Block) (r : Result) (kind ack id : Byte) (p : List Byte) :
    (p.length ≤ 1014 ∧
        transmit before after r kind ack id p = (after, { ret := [r], tx := [buildFrame kind ack id p] })) ∨
      (1014 < p.length ∧ transmit before after r kind ack id p = raiseFault .payloadTooLong before) := by
  rcases Nat.lt_or_ge 1014 p.length with h | h
  · exact .inr ⟨h, transmit_oversize h⟩
  · exact .inl ⟨h, transmit_fits h⟩

@[simp] theorem raiseFault_fault (c : Cause) (b : Block) : (raiseFault c b).1.fault = some c := rfl
@[simp] theorem raiseFault_rb (c : Cause) (b : Block) : (raiseFault c b).1.rb = b.rb := rfl
@[simp] theorem raiseFault_q (c : Cause) (b : Block) : (raiseFault c b).1.q = b.q := rfl
@[simp] theorem raiseFault_nid (c : Cause) (b : Block) : (raiseFault c b).1.nid = b.nid := rfl
@[simp] theorem raiseFault_pack (c : Cause) (b : Block) : (raiseFault c b).1.pack = b.pack := rfl
@[simp] theorem raiseFault_phs (c : Cause) (b : Block) : (raiseFault c b).1.phs = b.phs := rfl

/-- An arm of RX_PUSH run by itself either is refused by name, or completes as an operation of the block; it completes
exactly where the block is faulted (and refuses it) or the selector chooses the arm. -/
theorem execRsm_cases (a : RsmArm) (run : List Byte → RsmStep) (s : State) :
    ((faulted s.blk = true ∨ rsmArm s.blk.rb = a) ∧ execRsm a run s = perform (opRsm run) s) ∨
      (faulted s.blk = false ∧ rsmArm s.blk.rb ≠ a ∧ execRsm a run s = .refused .armNotSelected) := by
  by_cases hf : faulted s.blk = true
  · simp [execRsm, hf]
  · by_cases ha : rsmArm s.blk.rb = a
    · simp [execRsm, ha]
    · simp [execRsm, hf, ha]

/-- The same of an arm of TICK. -/
theorem execTickArm_cases (a : TickArm) (run : Block → Block → Block × Out) (s : State) :
    ((faulted s.blk = true ∨ nextTickArm s.par s.blk = a) ∧
        execTickArm a run s = perform (gated fun _ b => run b b) s) ∨
      (faulted s.blk = false ∧ nextTickArm s.par s.blk ≠ a ∧ execTickArm a run s = .refused .armNotSelected) := by
  by_cases hf : faulted s.blk = true
  · simp [execTickArm, hf]
  · by_cases ha : nextTickArm s.par s.blk = a
    · simp [execTickArm, ha]
    · simp [execTickArm, hf, ha]

/-- RX_PUSH's selector chooses each arm exactly on the tests of R131, in their order. -/
theorem rsmArm_cases (rb : List Byte) :
    (rsmArm rb = .finish ∧ rb.length < 7) ∨
      (rsmArm rb = .skip ∧ 7 ≤ rb.length ∧ syncAtFront rb = false) ∨
      (rsmArm rb = .discard ∧ 7 ≤ rb.length ∧ syncAtFront rb = true ∧ 1014 < declaredLen rb) ∨
      (rsmArm rb = .wait ∧ 7 ≤ rb.length ∧ syncAtFront rb = true ∧ declaredLen rb ≤ 1014 ∧
        rb.length < frameLen rb) ∨
      (rsmArm rb = .extract ∧ 7 ≤ rb.length ∧ syncAtFront rb = true ∧ declaredLen rb ≤ 1014 ∧
        frameLen rb ≤ rb.length) := by
  by_cases hg : 7 ≤ rb.length
  · cases hs : syncAtFront rb
    · simp [rsmArm, rsmArmOf, rsmSel, hg, hs]
    · by_cases hl : declaredLen rb ≤ 1014
      · by_cases he : frameLen rb ≤ rb.length
        · simp [rsmArm, rsmArmOf, rsmSel, hg, hs, hl, he]
        · simp [rsmArm, rsmArmOf, rsmSel, hg, hs, hl, he]
          omega
      · simp [rsmArm, rsmArmOf, rsmSel, hg, hs, hl]
        omega
  · simp [rsmArm, rsmArmOf, rsmSel, hg]
    omega

@[simp] theorem ackField_zero (s : State) : ackField 0#8 s = s := by simp [ackField]

theorem ackField_nonzero {a : Byte} (h : a ≠ 0#8) (s : State) : ackField a s = issue (opAckRx a) s := by
  simp [ackField, h]

@[simp] theorem ackField_par (a : Byte) (s : State) : (ackField a s).par = s.par := by
  unfold ackField; split <;> rfl
@[simp] theorem ackField_inbox (a : Byte) (s : State) : (ackField a s).inbox = s.inbox := by
  unfold ackField; split <;> rfl

/-- ACK_RX presents no packet and no event. -/
theorem opAckRx_rx (a : Byte) (par : Params) (b : Block) : (opAckRx a par b).2.rx = [] := by
  unfold opAckRx gated
  split
  · rfl
  · dsimp only
    split
    · split <;> rfl
    · rfl

theorem opAckRx_evt (a : Byte) (par : Params) (b : Block) : (opAckRx a par b).2.evt = [] := by
  unfold opAckRx gated
  split
  · rfl
  · dsimp only
    split
    · split <;> rfl
    · rfl

@[simp] theorem ackField_host (a : Byte) (s : State) : (ackField a s).host = s.host := by
  unfold ackField
  split
  · rfl
  · simp [opAckRx_rx, opAckRx_evt]

/-- CLEAR presents no packet and no event. -/
theorem opClear_rx (par : Params) (b : Block) : (opClear par b).2.rx = [] := by
  unfold opClear gated
  split <;> rfl

theorem opClear_evt (par : Params) (b : Block) : (opClear par b).2.evt = [] := by
  unfold opClear gated
  split <;> rfl

@[simp] theorem fullReset_host (s : State) :
    (fullReset s).host = { s.host with lastId := none, sendTimer := false, hbTimer := false, exhausted := none } := by
  unfold fullReset; dsimp only; split
  · rfl
  · simp [opClear_rx, opClear_evt]

/-! The fault row of R171: what the host does where the block is faulted, and where it is not. -/

theorem unlessFaulted_of_no_fault {f : State → State} {s : State} (h : s.blk.fault = none) :
    unlessFaulted f s = f (quiet s) := by simp [unlessFaulted, faulted_eq_false h]

theorem unlessFaulted_of_fault {f : State → State} {s : State} {c : Cause} (h : s.blk.fault = some c) :
    unlessFaulted f s = quiet s := by simp [unlessFaulted, faulted_eq_true h]

/-- The host issues what it offers, or nothing: nothing exactly where it may not or the block is faulted. -/
theorem hostOffers_cases (may : Bool) (i : Instr) (s : State) :
    (may = true ∧ faulted s.blk = false ∧ hostOffers may i s = .run i s) ∨
      ((may = false ∨ faulted s.blk = true) ∧ hostOffers may i s = .idle s) := by
  unfold hostOffers
  cases may <;> cases faulted s.blk <;> simp

end Sys2Proof.Machine
end

