-- ==== Sys2Proof/Laws/PerInstr.lean ====
section
/-! SUPPORT. Per-instruction family EncodedLength: how many bytes an instruction's encoding has (30_encoding.md R80, R96),
one lemma per constructor. -/

namespace Sys2Proof.Laws

/-- The length of an instruction's encoding: a frame's is `10 + L` (R80); a command's is its code and its operands (R96); an
arm has none (R97). -/
def encodedLength : Instr → Nat
  | .ctrl0 _ p => 10 + p.length
  | .data _ _ p => 10 + p.length
  | .handshake _ _ p => 10 + p.length
  | .handshakeAck _ _ p => 10 + p.length
  | .unknown _ _ _ p => 10 + p.length
  | .txData _ _ p => 10 + p.length
  | .txHeartbeat _ => 10
  | .txBareAck _ => 10
  | .txHandshakeAck => 10
  | .txHandshake => 10
  | .reset => 1
  | .xorsum s => 3 + s.length
  | .verify s => 3 + s.length
  | .encode _ _ _ p => 6 + p.length
  | .decode s => 3 + s.length
  | .rxPush c => 3 + c.length
  | .rxFlush => 1
  | .enqMsg p => 3 + p.length
  | .enqHb => 1
  | .setHsack => 1
  | .setAck _ => 2
  | .ackRx _ => 2
  | .tick => 1
  | .clear => 1
  | .rsmEnd => 0
  | .rsmSkip => 0
  | .rsmDiscard => 0
  | .rsmWait => 0
  | .rsmExtract => 0
  | .tHsack => 0
  | .tCollapse => 0
  | .tHb => 0
  | .tMsg => 0
  | .tExhausted => 0
  | .tBareack => 0
  | .tIdle => 0

theorem encodeFrame_length {kind ack id : Byte} {p f : List Byte} (h : encodeFrame kind ack id p = some f) :
    f.length = 10 + p.length := by
  unfold encodeFrame at h
  split at h
  · cases h
  · cases h; simp

end Sys2Proof.Laws

namespace Sys2Proof.Laws.EncodedLength

/-- Every encoding of the instruction has its stated length. -/
def Statement (i : Instr) : Prop := ∀ bytes, encode i = some bytes → bytes.length = encodedLength i

theorem ctrl0 (ack : Byte) (payload : List Byte) : Statement (.ctrl0 ack payload) :=
  fun _ h => encodeFrame_length h
theorem data (ack id : Byte) (payload : List Byte) : Statement (.data ack id payload) :=
  fun _ h => encodeFrame_length h
theorem handshake (ack id : Byte) (payload : List Byte) : Statement (.handshake ack id payload) :=
  fun _ h => encodeFrame_length h
theorem handshakeAck (ack id : Byte) (payload : List Byte) : Statement (.handshakeAck ack id payload) :=
  fun _ h => encodeFrame_length h
theorem unknown (kind ack id : Byte) (payload : List Byte) : Statement (.unknown kind ack id payload) :=
  fun _ h => encodeFrame_length h
theorem txData (ack id : Byte) (payload : List Byte) : Statement (.txData ack id payload) :=
  fun _ h => encodeFrame_length h
theorem txHeartbeat (ack : Byte) : Statement (.txHeartbeat ack) := fun _ h => encodeFrame_length h
theorem txBareAck (ack : Byte) : Statement (.txBareAck ack) := fun _ h => encodeFrame_length h
theorem txHandshakeAck : Statement .txHandshakeAck := fun _ h => encodeFrame_length h
theorem txHandshake : Statement .txHandshake := fun _ h => encodeFrame_length h

theorem reset : Statement .reset := by intro b h; cases h; rfl
theorem xorsum (s : List Byte) : Statement (.xorsum s) := by
  intro b h; cases h; simp [seqBytes_length, encodedLength]; omega
theorem verify (s : List Byte) : Statement (.verify s) := by
  intro b h; cases h; simp [seqBytes_length, encodedLength]; omega
theorem encode (kind ack id : Byte) (payload : List Byte) : Statement (.encode kind ack id payload) := by
  intro b h; cases h; simp [seqBytes_length, encodedLength]; omega
theorem decode (s : List Byte) : Statement (.decode s) := by
  intro b h; cases h; simp [seqBytes_length, encodedLength]; omega
theorem rxPush (chunk : List Byte) : Statement (.rxPush chunk) := by
  intro b h; cases h; simp [seqBytes_length, encodedLength]; omega
theorem rxFlush : Statement .rxFlush := by intro b h; cases h; rfl
theorem enqMsg (payload : List Byte) : Statement (.enqMsg payload) := by
  intro b h; cases h; simp [seqBytes_length, encodedLength]; omega
theorem enqHb : Statement .enqHb := by intro b h; cases h; rfl
theorem setHsack : Statement .setHsack := by intro b h; cases h; rfl
theorem setAck (i : Byte) : Statement (.setAck i) := by intro b h; cases h; rfl
theorem ackRx (a : Byte) : Statement (.ackRx a) := by intro b h; cases h; rfl
theorem tick : Statement .tick := by intro b h; cases h; rfl
theorem clear : Statement .clear := by intro b h; cases h; rfl

theorem rsmEnd : Statement .rsmEnd := by intro b h; cases h
theorem rsmSkip : Statement .rsmSkip := by intro b h; cases h
theorem rsmDiscard : Statement .rsmDiscard := by intro b h; cases h
theorem rsmWait : Statement .rsmWait := by intro b h; cases h
theorem rsmExtract : Statement .rsmExtract := by intro b h; cases h
theorem tHsack : Statement .tHsack := by intro b h; cases h
theorem tCollapse : Statement .tCollapse := by intro b h; cases h
theorem tHb : Statement .tHb := by intro b h; cases h
theorem tMsg : Statement .tMsg := by intro b h; cases h
theorem tExhausted : Statement .tExhausted := by intro b h; cases h
theorem tBareack : Statement .tBareack := by intro b h; cases h
theorem tIdle : Statement .tIdle := by intro b h; cases h

end Sys2Proof.Laws.EncodedLength
end

