-- ==== Sys2Proof/Laws/Reassembler.lean ====
section
/-! SUPPORT. What RX_PUSH's loop can do (41_reassembler.md R130-R141): the bound on its passes is immaterial, one equation
per arm, and what the whole loop leaves and presents. -/

namespace Sys2Proof.Machine

theorem chunkFits_iff (par : Params) (c : List Byte) :
    limitBelow par.chunkMax c.length = false ↔ ChunkFits par c := by
  unfold limitBelow ChunkFits
  cases par.chunkMax <;> simp

theorem syncAtFront_iff {rb : List Byte} (h : 7 ≤ rb.length) :
    syncAtFront rb = true ↔ rb.take 2 = [0x55#8, 0xAA#8] := by
  match rb, h with
  | a :: b :: r, _ => simp [syncAtFront, byteAt]

theorem declaredLen_append {x : List Byte} (d : List Byte) (h : 7 ≤ x.length) :
    declaredLen (x ++ d) = declaredLen x := by
  match x, h with
  | _ :: _ :: _ :: _ :: _ :: _ :: _ :: _, _ => rfl

theorem syncAtFront_append {x : List Byte} (d : List Byte) (h : 7 ≤ x.length) :
    syncAtFront (x ++ d) = syncAtFront x := by
  match x, h with
  | _ :: _ :: _ :: _ :: _ :: _ :: _ :: _, _ => rfl

/-! ## One pass -/

theorem rsmArm_finish {rb : List Byte} (h : rb.length < 7) : rsmArm rb = .finish := by
  simp [rsmArm, rsmArmOf, rsmSel, Nat.not_le.mpr h]

theorem rsmArm_skip {rb : List Byte} (h : 7 ≤ rb.length) (h2 : rb.take 2 ≠ [0x55#8, 0xAA#8]) : rsmArm rb = .skip := by
  have hs : syncAtFront rb = false := by simpa using mt (syncAtFront_iff h).1 h2
  simp [rsmArm, rsmArmOf, rsmSel, h, hs]

theorem rsmArm_discard {rb : List Byte} (h : 7 ≤ rb.length) (h2 : rb.take 2 = [0x55#8, 0xAA#8])
    (h3 : 1014 < declaredLen rb) : rsmArm rb = .discard := by
  simp [rsmArm, rsmArmOf, rsmSel, h, (syncAtFront_iff h).2 h2, Nat.not_le.mpr h3]

theorem rsmArm_wait {rb : List Byte} (h : 7 ≤ rb.length) (h2 : rb.take 2 = [0x55#8, 0xAA#8])
    (h3 : declaredLen rb ≤ 1014) (h4 : rb.length < 10 + declaredLen rb) : rsmArm rb = .wait := by
  simp [rsmArm, rsmArmOf, rsmSel, h, (syncAtFront_iff h).2 h2, h3, frameLen, Nat.not_le.mpr h4]

theorem rsmArm_extract {rb : List Byte} (h : 7 ≤ rb.length) (h2 : rb.take 2 = [0x55#8, 0xAA#8])
    (h3 : declaredLen rb ≤ 1014) (h4 : 10 + declaredLen rb ≤ rb.length) : rsmArm rb = .extract := by
  simp [rsmArm, rsmArmOf, rsmSel, h, (syncAtFront_iff h).2 h2, h3, frameLen, h4]

/-- Every pass but the last makes RB strictly shorter (R130). -/
theorem rsmRun_shorter {rb : List Byte} (h : rsmEnds (rsmArm rb) = false) :
    (rsmRun rb (rsmArm rb)).1.length < rb.length := by
  rcases rsmArm_cases rb with h1 | h1 | h1 | h1 | h1 <;> rw [h1.1] at h ⊢ <;> simp [rsmEnds] at h
  · simp [rsmRun, rsmSkip, rbDropOne]; omega
  · simp [rsmRun, rsmDiscard]; omega
  · simp [rsmRun, rsmExtract, rbAfter, frameLen]; omega

/-! ## The loop -/

/-- Any bound of at least the buffer's length gives the same loop. -/
theorem rsmLoop_bound (n : Nat) :
    ∀ (m : Nat) (rb : List Byte), rb.length ≤ n → rb.length ≤ m → rsmLoop n rb = rsmLoop m rb := by
  induction n with
  | zero =>
    intro m rb h _
    have : rb = [] := by simpa using h
    subst this
    cases m <;> simp [rsmLoop, rsmArm, rsmArmOf, rsmSel, rsmRun, rsmEnds, rsmEnd]
  | succ n ih =>
    intro m rb h hm
    cases m with
    | zero =>
      have : rb = [] := by simpa using hm
      subst this
      simp [rsmLoop, rsmArm, rsmArmOf, rsmSel, rsmRun, rsmEnds, rsmEnd]
    | succ m =>
      simp only [rsmLoop]
      cases he : rsmEnds (rsmArm rb)
      · have := rsmRun_shorter he
        rw [ih m _ (by omega) (by omega)]
      · rfl

/-- The loop without its bound: take the arm, and go on unless it ends the loop (R130). -/
theorem reassemble_eq (rb : List Byte) : reassemble rb =
    if rsmEnds (rsmArm rb) then rsmRun rb (rsmArm rb)
    else ((reassemble (rsmRun rb (rsmArm rb)).1).1,
      (rsmRun rb (rsmArm rb)).2 ++ (reassemble (rsmRun rb (rsmArm rb)).1).2) := by
  conv_lhs => rw [reassemble, rsmLoop_bound _ (rb.length + 1) _ (le_refl _) (by omega)]
  simp only [rsmLoop]
  cases he : rsmEnds (rsmArm rb)
  · have := rsmRun_shorter he
    rw [rsmLoop_bound _ (rsmRun rb (rsmArm rb)).1.length _ (by omega) (le_refl _)]
    rfl
  · rfl

theorem reassemble_nil : reassemble [] = ([], []) := rfl
theorem reassemble_finish {rb : List Byte} (h : rsmArm rb = .finish) : reassemble rb = (rb, []) := by
  rw [reassemble_eq, h]; rfl
theorem reassemble_wait {rb : List Byte} (h : rsmArm rb = .wait) : reassemble rb = (rb, []) := by
  rw [reassemble_eq, h]; rfl
theorem reassemble_skip {rb : List Byte} (h : rsmArm rb = .skip) : reassemble rb = reassemble (rb.drop 1) := by
  rw [reassemble_eq, h]; rfl
theorem reassemble_discard {rb : List Byte} (h : rsmArm rb = .discard) : reassemble rb = ([], []) := by
  rw [reassemble_eq, h]; rfl
theorem reassemble_extract {rb : List Byte} (h : rsmArm rb = .extract) : reassemble rb =
    ((reassemble (rb.drop (frameLen rb))).1,
      (decodePacket (rb.take (frameLen rb))).toList ++ (reassemble (rb.drop (frameLen rb))).2) := by
  rw [reassemble_eq, h]; rfl

/-- What the loop can do: what it leaves is a suffix of what it was given and is at rest, and every packet it presents fits
a frame. -/
theorem reassemble_spec (n : Nat) : ∀ rb : List Byte, rb.length ≤ n →
    (reassemble rb).1 <:+ rb ∧ RbAtRest (reassemble rb).1 ∧ ∀ p ∈ (reassemble rb).2, p.payload.length ≤ 1014 := by
  induction n with
  | zero =>
    intro rb h
    have : rb = [] := by simpa using h
    subst this; exact ⟨by simp [reassemble_nil], .inl (by simp [reassemble_nil]), by simp [reassemble_nil]⟩
  | succ n ih =>
    intro rb h
    rcases rsmArm_cases rb with h1 | h1 | h1 | h1 | h1
    · rw [reassemble_finish h1.1]; exact ⟨List.suffix_refl _, .inl h1.2, by simp⟩
    · rw [reassemble_skip h1.1]
      have := ih (rb.drop 1) (by simp; omega)
      exact ⟨this.1.trans (List.drop_suffix _ _), this.2⟩
    · rw [reassemble_discard h1.1]; exact ⟨List.nil_suffix, .inl (by simp), by simp⟩
    · rw [reassemble_wait h1.1]
      exact ⟨List.suffix_refl _, .inr ⟨(syncAtFront_iff h1.2.1).1 h1.2.2.1, h1.2.2.2.1, h1.2.2.2.2⟩, by simp⟩
    · rw [reassemble_extract h1.1]
      have := ih (rb.drop (frameLen rb)) (by simp [frameLen]; omega)
      refine ⟨this.1.trans (List.drop_suffix _ _), this.2.1, fun p hp => ?_⟩
      rcases List.mem_append.1 hp with hp | hp
      · exact decodePacket_payload_fits (by simpa using hp)
      · exact this.2.2 p hp

/-- RX_PUSH of a chunk that fits, in a block that is not faulted (R130). -/
theorem opRxPush_fits {par : Params} {b : Block} {c : List Byte} (h : b.fault = none) (hc : ChunkFits par c) :
    opRxPush c par b =
      ({ b with rb := (reassemble (b.rb ++ c)).1 },
        { ret := [.packets (reassemble (b.rb ++ c)).2], rx := (reassemble (b.rb ++ c)).2 }) := by
  simp [opRxPush, gated_of_no_fault h, (chunkFits_iff par c).2 hc, rbAppend]

end Sys2Proof.Machine
end

