-- ==== Sys2Proof/Laws/Scheduler.lean ====
section
/-! SUPPORT. What TICK can do (43_scheduler.md R190-R199): the collapse of leading heartbeats, the arm chosen after it, and
the six cases of a whole tick, each as its arm's own effect. -/

namespace Sys2Proof.Machine

theorem limitIs_iff (l : Limit) (n : Nat) : limitIs l n = true ↔ l = .fin n := by
  cases l <;> simp [limitIs]; exact eq_comm

theorem limitSpent_iff (l : Limit) (n : Nat) : limitSpent l n = true ↔ ∃ m, l = .fin m ∧ 1 + m ≤ n := by
  cases l <;> simp [limitSpent]

theorem maySend_iff (par : Params) (n : Nat) : limitSpent par.retryMax n = false ↔ MaySend par n := by
  unfold limitSpent MaySend; cases par.retryMax <;> simp

/-! ## Collapse (R192) -/

theorem collapse_leading (k : Nat) (e : Entry) (rest : List Entry) :
    collapse (List.replicate k .hb ++ e :: rest) = collapse (e :: rest) := by
  induction k with
  | zero => rfl
  | succ k ih =>
    cases k with
    | zero => simp [collapse]
    | succ k => rw [← ih]; simp [List.replicate_succ, collapse]

/-- What collapse leaves: nothing, one heartbeat, or a queue whose head is a message; it drops heartbeats alone. -/
theorem collapse_cases (q : List Entry) :
    (collapse q = [] ∧ q = []) ∨ (collapse q = [.hb] ∧ ∃ k, q = List.replicate (k + 1) .hb) ∨
      ∃ k p i n rest, collapse q = .msg p i n :: rest ∧ q = List.replicate k .hb ++ .msg p i n :: rest := by
  induction q with
  | nil => simp [collapse]
  | cons e q ih =>
    cases e with
    | msg p i n => exact .inr (.inr ⟨0, p, i, n, q, by simp [collapse], rfl⟩)
    | hb =>
      cases q with
      | nil => exact .inr (.inl ⟨by simp [collapse], 0, rfl⟩)
      | cons e q =>
        have hc : collapse (.hb :: e :: q) = collapse (e :: q) := by simp [collapse]
        rw [hc]
        rcases ih with ⟨_, h⟩ | ⟨h, k, hk⟩ | ⟨k, p, i, n, r, h1, h2⟩
        · simp at h
        · exact .inr (.inl ⟨h, k + 1, by rw [hk]; rfl⟩)
        · exact .inr (.inr ⟨k + 1, p, i, n, r, h1, by rw [h2]; rfl⟩)

/-! ## The arm chosen (R97) -/

/-- The selector never chooses the pre-step. -/
theorem tickArmOf_ne_collapse (t : TickSel) : tickArmOf t ≠ .collapse := by
  rcases t with ⟨p, m, h, x, a⟩
  cases p <;> cases m <;> cases h <;> cases x <;> cases a <;> simp [tickArmOf]

theorem tickArm_hsack {par : Params} {b : Block} (hp : b.phs = true) : tickArmOf (tickSel par b) = .hsack := by
  simp [tickArmOf, tickSel, hp]

theorem tickArm_hb {par : Params} {b : Block} {rest : List Entry} (hp : b.phs = false) (hq : b.q = .hb :: rest) :
    tickArmOf (tickSel par b) = .hb := by
  simp [tickArmOf, tickSel, hp, hq, headIsHb]

theorem tickArm_msg {par : Params} {b : Block} {p i n} {rest : List Entry} (hp : b.phs = false)
    (hq : b.q = .msg p i n :: rest) (hm : limitSpent par.retryMax n = false) : tickArmOf (tickSel par b) = .msg := by
  simp [tickArmOf, tickSel, hp, hq, headIsMsg, headIsHb, retriesExhausted, hm]

theorem tickArm_exhausted {par : Params} {b : Block} {p i n} {rest : List Entry} (hp : b.phs = false)
    (hq : b.q = .msg p i n :: rest) (hm : limitSpent par.retryMax n = true) :
    tickArmOf (tickSel par b) = .exhausted := by
  simp [tickArmOf, tickSel, hp, hq, headIsMsg, headIsHb, retriesExhausted, hm]

theorem tickArm_bareack {par : Params} {b : Block} (hp : b.phs = false) (hq : b.q = []) (ha : b.pack ≠ 0#8) :
    tickArmOf (tickSel par b) = .bareack := by
  have ha' : (b.pack != 0#8) = true := by simpa using ha
  simp only [tickArmOf, tickSel, hp, hq, headIsMsg, headIsHb, ackPending, ha']

theorem tickArm_idle {par : Params} {b : Block} (hp : b.phs = false) (hq : b.q = []) (ha : b.pack = 0#8) :
    tickArmOf (tickSel par b) = .idle := by
  simp [tickArmOf, tickSel, hp, hq, headIsMsg, headIsHb, ackPending, ha]

/-! ## A whole tick -/

/-- What TICK can do in a block that is not faulted: exactly one of six arms, on the queue left by the collapse. -/
theorem opTick_cases (par : Params) (b : Block) (hf : b.fault = none) :
    (b.phs = true ∧ opTick par b = tHsack b b) ∨
    (b.phs = false ∧ b.q = [] ∧ b.pack ≠ 0#8 ∧ opTick par b = tBareack b b) ∨
    (b.phs = false ∧ b.q = [] ∧ b.pack = 0#8 ∧ opTick par b = tIdle b b) ∨
    (∃ k, b.phs = false ∧ b.q = List.replicate (k + 1) .hb ∧ opTick par b = tHb b { b with q := [.hb] }) ∨
    (∃ k p i n rest, b.phs = false ∧ b.q = List.replicate k .hb ++ .msg p i n :: rest ∧
      limitSpent par.retryMax n = false ∧ opTick par b = tMsg b { b with q := .msg p i n :: rest }) ∨
    (∃ k p i n rest, b.phs = false ∧ b.q = List.replicate k .hb ++ .msg p i n :: rest ∧
      limitSpent par.retryMax n = true ∧ opTick par b = tExhausted b { b with q := .msg p i n :: rest }) := by
  have he : opTick par b = tickRun b (afterCollapse b) (tickArmOf (tickSel par (afterCollapse b))) := by
    rw [opTick, gated_of_no_fault hf]
  rcases Bool.eq_false_or_eq_true b.phs with hp | hp
  · have hc : afterCollapse b = b := by simp [afterCollapse, hp]
    exact .inl ⟨hp, by rw [he, hc, tickArm_hsack hp]; rfl⟩
  · have hc : afterCollapse b = { b with q := collapse b.q } := by simp [afterCollapse, hp]
    rw [he, hc]
    rcases collapse_cases b.q with ⟨h, hq⟩ | ⟨h, k, hq⟩ | ⟨k, p, i, n, rest, h, hq⟩
    · have hb : ({ b with q := collapse b.q } : Block) = b := by rw [h, ← hq]
      rw [hb]
      by_cases ha : b.pack = 0#8
      · exact .inr (.inr (.inl ⟨hp, hq, ha, by rw [tickArm_idle hp hq ha]; rfl⟩))
      · exact .inr (.inl ⟨hp, hq, ha, by rw [tickArm_bareack hp hq ha]; rfl⟩)
    · rw [h]
      exact .inr (.inr (.inr (.inl ⟨k, hp, hq, by rw [tickArm_hb (by exact hp) rfl]; rfl⟩)))
    · rw [h]
      cases hm : limitSpent par.retryMax n
      · exact .inr (.inr (.inr (.inr (.inl ⟨k, p, i, n, rest, hp, hq, hm, by
          rw [tickArm_msg (by exact hp) rfl hm]; rfl⟩))))
      · exact .inr (.inr (.inr (.inr (.inr ⟨k, p, i, n, rest, hp, hq, hm, by
          rw [tickArm_exhausted (by exact hp) rfl hm]; rfl⟩))))

end Sys2Proof.Machine
end

