-- ==== Sys2Proof/Tests/Slice0.lean ====
section
/-! SUPPORT. The model's own tests. Every expected value is a vector of spec/95_test_vectors.md, named in the comment (K, V,
O, M, S, H and P), or a byte row of another spec file; none was read off the model. After them, for each obligation with
hypotheses, a witness that meets them, one for each clause, at the boundary where a clause has one. -/

namespace Sys2Proof.Tests

open Sys2Proof Sys2Proof.Machine

/-! ## Small states -/

/-- The state an outcome goes on with. -/
def after : Host.Outcome State Fault Refusal → Option State
  | .next t => some t
  | .fault _ => none
  | .refused _ => none

def afterExec (i : Instr) (s : State) : Option State := after (exec i s)
def afterStep (s : State) : Option State := after (step s)

/-- The reset state with this block. -/
def withBlock (b : Block) : State := { State.reset with blk := b }

/-- The reset block with this queue. -/
def withQueue (q : List Entry) : State := withBlock { Block.reset with q := q }

/-- The reset block with this buffer. -/
def withBuffer (rb : List Byte) : State := withBlock { Block.reset with rb := rb }

/-- The reset block with a fault. -/
def faultedState : State := withBlock { Block.reset with fault := some .payloadTooLong }

/-- The reset state with these inputs pending. -/
def withInputs (l : List Input) : State := { State.reset with inbox := l }

/-- The reset state with a host in this connection state, its timers as R166 and R168 have them. -/
def withConn (c : Conn) (ever timers : Bool) : State :=
  { State.reset with
    host := { HostState.reset with conn := c, everConnected := ever, sendTimer := timers, hbTimer := timers } }

/-- A payload of this many zero bytes. -/
def zeros (n : Nat) : List Byte := List.replicate n 0

theorem zeros_length (n : Nat) : (zeros n).length = n := by simp [zeros]

def hi : List Byte := [0x68, 0x69]

/-- K1, K3, K4, K5, K9 and K7. -/
def frameK1 : List Byte := [0x55, 0xAA, 0x00, 0x00, 0x01, 0x00, 0x02, 0x68, 0x69, 0x02, 0xCC, 0x33]
def frameK3 : List Byte := [0x55, 0xAA, 0x00, 0x01, 0x00, 0x00, 0x00, 0x01, 0xCC, 0x33]
def frameK4 : List Byte := [0x55, 0xAA, 0x01, 0x00, 0x00, 0x00, 0x00, 0x01, 0xCC, 0x33]
def frameK5 : List Byte := [0x55, 0xAA, 0x02, 0x00, 0x00, 0x00, 0x00, 0x02, 0xCC, 0x33]
def frameK7 : List Byte :=
  [0x55, 0xAA, 0x00, 0x01, 0x02, 0x00, 0x04, 0x55, 0xAA, 0xCC, 0x33, 0x07, 0xCC, 0x33]
def frameK9 : List Byte := [0x55, 0xAA, 0x07, 0x00, 0x00, 0x00, 0x00, 0x07, 0xCC, 0x33]

def packetK1 : Packet := { kind := 0, ack := 0, id := 1, payload := hi }
def packetK3 : Packet := { kind := 0, ack := 1, id := 0, payload := [] }

/-! ## WellFormed: one ill-formed term for each check -/

theorem test_wf_ctrl0 : WellFormed (.ctrl0 0 (zeros 1015)) = false := by simp [WellFormed, zeros_length]
theorem test_wf_data_id : WellFormed (.data 0 0 []) = false := by decide
theorem test_wf_data_payload : WellFormed (.data 0 1 (zeros 1015)) = false := by simp [WellFormed, zeros_length]
theorem test_wf_handshake : WellFormed (.handshake 0 0 (zeros 1015)) = false := by simp [WellFormed, zeros_length]
theorem test_wf_handshake_ack : WellFormed (.handshakeAck 0 0 (zeros 1015)) = false := by simp [WellFormed, zeros_length]
theorem test_wf_unknown_kind : WellFormed (.unknown 2 0 0 []) = false := by decide
theorem test_wf_unknown_payload : WellFormed (.unknown 3 0 0 (zeros 1015)) = false := by simp [WellFormed, zeros_length]
theorem test_wf_tx_data_id : WellFormed (.txData 0 0 []) = false := by decide
theorem test_wf_tx_data_payload : WellFormed (.txData 0 1 (zeros 1015)) = false := by simp [WellFormed, zeros_length]
theorem test_wf_tx_bare_ack : WellFormed (.txBareAck 0) = false := by decide
theorem test_wf_xorsum : WellFormed (.xorsum (zeros 65536)) = false := by simp [WellFormed, zeros_length]
theorem test_wf_verify : WellFormed (.verify (zeros 65536)) = false := by simp [WellFormed, zeros_length]
theorem test_wf_encode : WellFormed (.encode 0 0 0 (zeros 65536)) = false := by simp [WellFormed, zeros_length]
theorem test_wf_decode : WellFormed (.decode (zeros 65536)) = false := by simp [WellFormed, zeros_length]
theorem test_wf_rx_push : WellFormed (.rxPush (zeros 65536)) = false := by simp [WellFormed, zeros_length]
theorem test_wf_enq_msg : WellFormed (.enqMsg (zeros 65536)) = false := by simp [WellFormed, zeros_length]
/-- The largest payload is well formed (R86). -/
theorem test_wf_largest : WellFormed (.data 0 1 (zeros 1014)) = true := by simp [WellFormed, zeros_length]

/-! ## Decoding: words written out from R81, R90, R91 and R96 -/

/-- K3: CTRL0. -/
theorem test_decode_ctrl0 : decodeFrame frameK3 = .ok (.ctrl0 1 []) := by decide
/-- K1, V1: DATA. -/
theorem test_decode_data : decodeFrame frameK1 = .ok (.data 0 1 hi) := by decide
/-- K4: HANDSHAKE. -/
theorem test_decode_handshake : decodeFrame frameK4 = .ok (.handshake 0 0 []) := by decide
/-- K5: HANDSHAKE_ACK. -/
theorem test_decode_handshake_ack : decodeFrame frameK5 = .ok (.handshakeAck 0 0 []) := by decide
/-- K9, V13: UNKNOWN. -/
theorem test_decode_unknown : decodeFrame frameK9 = .ok (.unknown 7 0 0 []) := by decide
/-- K12: id 0 with a payload is still CTRL0. -/
theorem test_decode_ctrl0_payload :
    decodeFrame [0x55, 0xAA, 0x00, 0x00, 0x00, 0x00, 0x01, 0x78, 0x79, 0xCC, 0x33] = .ok (.ctrl0 0 [0x78]) := by decide
/-- K6: an emitted DATA frame, and what the peer reads in it. -/
theorem test_encode_tx_data :
    encode (.txData 7 255 [0x41]) = some [0x55, 0xAA, 0x00, 0x07, 0xFF, 0x00, 0x01, 0x41, 0xB8, 0xCC, 0x33] ∧
      decodeFrame [0x55, 0xAA, 0x00, 0x07, 0xFF, 0x00, 0x01, 0x41, 0xB8, 0xCC, 0x33] = .ok (.data 7 255 [0x41]) := by
  decide
/-- K3: an emitted HEARTBEAT. -/
theorem test_encode_tx_heartbeat :
    encode (.txHeartbeat 1) = some frameK3 ∧ decodeFrame frameK3 = .ok (peerForm (.txHeartbeat 1)) := by decide
/-- K3: an emitted BAREACK has the same bytes. -/
theorem test_encode_tx_bare_ack :
    encode (.txBareAck 1) = some frameK3 ∧ decodeFrame frameK3 = .ok (peerForm (.txBareAck 1)) := by decide
/-- K5: an emitted HANDSHAKE_ACK. -/
theorem test_encode_tx_handshake_ack :
    encode .txHandshakeAck = some frameK5 ∧ decodeFrame frameK5 = .ok (peerForm .txHandshakeAck) := by decide
/-- K4: an emitted HANDSHAKE. -/
theorem test_encode_tx_handshake :
    encode .txHandshake = some frameK4 ∧ decodeFrame frameK4 = .ok (peerForm .txHandshake) := by decide

/-- O1. -/
theorem test_decode_reset : decodeCommand [0x01] = .ok .reset := by decide
/-- O2. -/
theorem test_decode_xorsum : decodeCommand [0x10, 0x00, 0x03, 0x00, 0x00, 0x01] = .ok (.xorsum [0, 0, 1]) := by decide
/-- R96. -/
theorem test_decode_verify : decodeCommand [0x11, 0x00, 0x02, 0x55, 0xAA] = .ok (.verify [0x55, 0xAA]) := by decide
/-- O3. -/
theorem test_decode_encode :
    decodeCommand [0x12, 0x00, 0x00, 0x01, 0x00, 0x02, 0x68, 0x69] = .ok (.encode 0 0 1 hi) := by decide
/-- R96: the operands keep their order. -/
theorem test_decode_encode_order :
    decodeCommand [0x12, 0x07, 0x08, 0x09, 0x00, 0x00] = .ok (.encode 7 8 9 []) := by decide
/-- R96. -/
theorem test_decode_decode : decodeCommand [0x13, 0x00, 0x01, 0xFF] = .ok (.decode [0xFF]) := by decide
/-- O4. -/
theorem test_decode_rx_push :
    decodeCommand [0x20, 0x00, 0x03, 0x55, 0xAA, 0x00] = .ok (.rxPush [0x55, 0xAA, 0x00]) := by decide
/-- O5. -/
theorem test_decode_enq_msg : decodeCommand [0x30, 0x00, 0x02, 0x68, 0x69] = .ok (.enqMsg hi) := by decide
/-- O6. -/
theorem test_decode_set_ack : decodeCommand [0x33, 0x01] = .ok (.setAck 1) := by decide
theorem test_decode_ack_rx : decodeCommand [0x34, 0x01] = .ok (.ackRx 1) := by decide
/-- O7. -/
theorem test_decode_enq_hb : decodeCommand [0x31] = .ok .enqHb := by decide
theorem test_decode_set_hsack : decodeCommand [0x32] = .ok .setHsack := by decide
theorem test_decode_tick : decodeCommand [0x35] = .ok .tick := by decide
theorem test_decode_clear : decodeCommand [0x36] = .ok .clear := by decide
theorem test_decode_rx_flush : decodeCommand [0x21] = .ok .rxFlush := by decide
/-- O8. -/
theorem test_decode_bad_operation : decodeCommand [0x40] = .error (.badOperation 0x40) := by decide
/-- A count larger than what follows, and bytes left over (log 7). -/
theorem test_decode_malformed :
    decodeCommand [] = .error .commandEmpty ∧ decodeCommand [0x33] = .error .operandsMissing ∧
      decodeCommand [0x10, 0x01, 0x00, 0xFF] = .error .operandsMissing ∧
      decodeCommand [0x35, 0x00] = .error .operandsLeftOver := by decide

/-- The reassembler's selector values of R97, and the arms their patterns name. -/
theorem test_rsm_patterns :
    rsmArmOf ⟨false, true, true, true⟩ = .finish ∧ rsmArmOf ⟨true, false, true, true⟩ = .skip ∧
      rsmArmOf ⟨true, true, false, true⟩ = .discard ∧ rsmArmOf ⟨true, true, true, false⟩ = .wait ∧
      rsmArmOf ⟨true, true, true, true⟩ = .extract := by decide
/-- S22: the tick selector's values. -/
theorem test_tick_patterns :
    tickArmOf ⟨false, true, false, false, false⟩ = .msg ∧ tickArmOf ⟨false, false, false, false, true⟩ = .bareack ∧
      tickArmOf ⟨false, false, true, false, true⟩ = .hb ∧ tickArmOf ⟨false, true, false, true, false⟩ = .exhausted ∧
      tickArmOf ⟨true, true, false, false, true⟩ = .hsack ∧ tickArmOf ⟨false, false, false, false, false⟩ = .idle := by
  decide
/-- S22: the selectors of the states they belong to (S1 first tick, S6, S7 seventh tick, S4 first tick). -/
theorem test_tick_selectors :
    tickSel Params.default { Block.reset with q := [.msg hi 0 0] } = ⟨false, true, false, false, false⟩ ∧
      tickSel Params.default { Block.reset with q := [.hb], pack := 1 } = ⟨false, false, true, false, true⟩ ∧
      tickSel Params.default { Block.reset with q := [.msg [0x6D] 1 6] } = ⟨false, true, false, true, false⟩ ∧
      tickSel Params.default { Block.reset with q := [.msg hi 0 0], pack := 4, phs := true } =
        ⟨true, true, false, false, true⟩ := by decide

/-- R90's matches as header words (R82), each with an empty payload. -/
theorem test_table_forms :
    decodeTableWord 56 0x55AA0000000000 = some (.ctrl0 0 []) ∧ decodeTableWord 56 0x55AA0000010000 = some (.data 0 1 []) ∧
      decodeTableWord 56 0x55AA0100000000 = some (.handshake 0 0 []) ∧
      decodeTableWord 56 0x55AA0200000000 = some (.handshakeAck 0 0 []) ∧
      decodeTableWord 56 0x55AA0700000000 = some (.unknown 7 0 0 []) := by decide
/-- R93: no sync marker, and a length over 1014. -/
theorem test_table_illegal :
    decodeTableWord 56 0x54AA0000000000 = none ∧ decodeTableWord 56 0x55AA00000003F7 = none := by decide
/-- R96's codes as table words, their operands zero. -/
theorem test_table_operations :
    decodeTableWord 8 0x01 = some .reset ∧ decodeTableWord 8 0x10 = some (.xorsum []) ∧
      decodeTableWord 8 0x12 = some (.encode 0 0 0 []) ∧ decodeTableWord 8 0x20 = some (.rxPush []) ∧
      decodeTableWord 8 0x33 = some (.setAck 0) ∧ decodeTableWord 8 0x36 = some .clear ∧
      decodeTableWord 8 0x40 = none := by decide
/-- A table word placed is what the next step runs: a frame's form, and a command (H2, S11). -/
theorem test_placed_word_runs :
    (afterStep (State.reset.withFetchWord 56 0x55AA0100000000)).map (fun t => (t.blk.phs, t.host.conn)) =
        some (true, .connected) ∧
      (afterStep (State.reset.withFetchWord 8 0x31)).map (fun t => t.blk.q) = some [.hb] := by decide

/-! ## Codec -/

/-- X3 and X6. -/
theorem test_xorsum : (afterExec (.xorsum [0x00, 0x00, 0x01, 0x00, 0x02, 0x68, 0x69]) State.reset).map (·.out.ret) =
    some [.byte 0x02] := by decide
theorem test_xorsum_b8 : (afterExec (.xorsum [0x00, 0x07, 0xFF, 0x00, 0x01, 0x41]) State.reset).map (·.out.ret) =
    some [.byte 0xB8] := by decide
/-- V8: two flips in one bit column pass. V6: a flipped length bit. -/
theorem test_verify_two_flips :
    verifyFrame [0x55, 0xAA, 0, 0, 1, 0, 2, 0x69, 0x68, 2, 0xCC, 0x33] = .ok ∧
      verifyFrame [0x55, 0xAA, 0, 0, 1, 0, 3, 0x68, 0x69, 2, 0xCC, 0x33] = .bad .badLength := by decide
/-- V2, V4, V5: the other three causes. -/
theorem test_verify_causes :
    verifyFrame [0x55, 0xAA, 0, 0, 1, 0, 2, 0x69, 0x69, 2, 0xCC, 0x33] = .bad .badChecksum ∧
      verifyFrame [0x54, 0xAA, 0, 0, 1, 0, 2, 0x68, 0x69, 2, 0xCC, 0x33] = .bad .badSync ∧
      verifyFrame [0x55, 0xAA, 0, 0, 1, 0, 2, 0x68, 0x69, 2, 0xCC, 0x32] = .bad .badTrailer := by decide
/-- K13: every header byte at its own place, and all 256 kinds encode. -/
theorem test_encode : (afterExec (.encode 0xFF 0xFF 0xFF [0xFF]) State.reset).map (·.out.ret) =
    some [.frame [0x55, 0xAA, 0xFF, 0xFF, 0xFF, 0x00, 0x01, 0xFF, 0x01, 0xCC, 0x33]] := by decide
/-- K10: no element changes. -/
theorem test_encode_hello : (afterExec (.encode 0 0 1 [0x68, 0x65, 0x6C, 0x6C, 0x6F]) State.reset).map
      (fun t => (t.out.ret, decide (t.blk = Block.reset))) =
    some ([.frame [0x55, 0xAA, 0, 0, 1, 0, 5, 0x68, 0x65, 0x6C, 0x6C, 0x6F, 0x66, 0xCC, 0x33]], true) := by decide
/-- V15 and V9. -/
theorem test_decode : (afterExec (.decode frameK7) State.reset).map (·.out.ret) =
    some [.decoded (some ⟨0, 1, 2, [0x55, 0xAA, 0xCC, 0x33]⟩)] := by decide
theorem test_decode_short : (afterExec (.decode [0x55, 0xAA, 0, 0, 1, 0, 2, 0x68, 0x69]) State.reset).map (·.out.ret) =
    some [.decoded none] := by decide

/-! ## Emitted frames -/

/-- K11. -/
theorem test_tx_data : (afterExec (.txData 9 1 hi) State.reset).map (·.out.tx) =
    some [[0x55, 0xAA, 0x00, 0x09, 0x01, 0x00, 0x02, 0x68, 0x69, 0x0B, 0xCC, 0x33]] := by decide
/-- K2. -/
theorem test_tx_heartbeat : (afterExec (.txHeartbeat 0) State.reset).map (·.out.tx) =
    some [[0x55, 0xAA, 0x00, 0x00, 0x00, 0x00, 0x00, 0x00, 0xCC, 0x33]] := by decide
/-- K3. -/
theorem test_tx_bare_ack : (afterExec (.txBareAck 1) State.reset).map (·.out.tx) = some [frameK3] := by decide
/-- K5. -/
theorem test_tx_handshake_ack : (afterExec .txHandshakeAck State.reset).map (·.out.tx) = some [frameK5] := by decide
/-- K4, P1 line 2. -/
theorem test_tx_handshake : (afterExec .txHandshake State.reset).map (·.out.tx) = some [frameK4] := by decide

/-! ## Reassembler -/

/-- M7: a frame with a flipped bit is dropped and the next one presented. -/
theorem test_rx_push : (afterExec (.rxPush ([0x55, 0xAA, 0, 0, 1, 0, 2, 0x68, 0x79, 2, 0xCC, 0x33] ++ frameK3)) State.reset).map
      (fun t => (t.out.rx, t.blk.rb)) = some ([packetK3], []) := by decide
/-- M24: a corrupted length takes the next frame's first byte. M26, CHUNK_MAX = 16: the chunk is not taken. -/
theorem test_rx_push_swallow :
    (afterExec (.rxPush ([0x55, 0xAA, 0, 0, 1, 0, 3, 0x68, 0x69, 2, 0xCC, 0x33] ++ frameK3)) State.reset).map
        (fun t => (t.out.rx, t.blk.rb)) = some ([], [0x00, 0x00, 0x00, 0x01, 0xCC, 0x33]) ∧
      (afterExec (.rxPush (List.replicate 17 0)) { State.reset with par := { Params.default with chunkMax := .fin 16 } }).map
        (fun t => (t.out.ret, t.blk.rb)) = some ([.rejected .chunkTooLong], []) := by decide
/-- M27. -/
theorem test_rx_flush : (afterExec .rxFlush (withBuffer [0x55, 0xAA, 0x00])).map (·.blk.rb) = some [] := by decide
/-- M6: six bytes are not examined. -/
theorem test_rsm_end : (afterExec .rsmEnd (withBuffer [1, 2, 3, 4, 5, 6])).map (·.blk.rb) =
    some [1, 2, 3, 4, 5, 6] := by decide
/-- M21: the first arm. -/
theorem test_rsm_skip : (afterExec .rsmSkip (withBuffer (0x55 :: frameK1))).map (·.blk.rb) = some frameK1 := by decide
/-- M8, L = 1015: everything held is lost. -/
theorem test_rsm_discard : (afterExec .rsmDiscard (withBuffer ([0x55, 0xAA, 0, 0, 1, 0x03, 0xF7] ++ frameK3))).map
    (fun t => (t.blk.rb, t.out.rx)) = some ([], []) := by decide
/-- M10, L = 1014, the largest legal: wait, not discard. -/
theorem test_rsm_wait : (afterExec .rsmWait (withBuffer [0x55, 0xAA, 0, 0, 1, 0x03, 0xF6])).map (·.blk.rb) =
    some [0x55, 0xAA, 0, 0, 1, 0x03, 0xF6] := by decide
theorem test_rsm_discard_not_at_1014 :
    afterExec .rsmDiscard (withBuffer [0x55, 0xAA, 0, 0, 1, 0x03, 0xF6]) = none := by decide
/-- M4: the first arm. -/
theorem test_rsm_extract : (afterExec .rsmExtract (withBuffer (frameK1 ++ frameK3))).map
    (fun t => (t.out.rx, t.blk.rb)) = some ([packetK1], frameK3) := by decide
/-- M11: the false frame fails and its 14 bytes are gone. -/
theorem test_rsm_extract_fails :
    (afterExec .rsmExtract (withBuffer ([0x55, 0xAA, 9, 9, 9, 0, 4] ++ frameK3))).map
    (fun t => (t.out.rx, t.blk.rb)) = some ([], [0x01, 0xCC, 0x33]) := by decide

/-! ## Scheduler -/

/-- S1: the first line. -/
theorem test_enq_msg : (afterExec (.enqMsg hi) State.reset).map (fun t => (t.out.ret, t.blk.q)) =
    some ([.ok], [.msg hi 0 0]) := by decide
/-- S21, QDEPTH = 2: the queue is full. -/
theorem test_enq_msg_full : (afterExec (.enqMsg [0x62])
      { withQueue [.msg [0x61] 0 0, .hb] with par := { Params.default with qdepth := .fin 2 } }).map
      (fun t => (t.out.ret, t.blk.q)) =
    some ([.rejected .queueFull], [.msg [0x61] 0 0, .hb]) := by decide
/-- S2: after a heartbeat. -/
theorem test_enq_hb : (afterExec .enqHb (withQueue [.hb])).map (·.blk.q) = some [.hb, .hb] := by decide
/-- S21. -/
theorem test_enq_hb_full : (afterExec .enqHb
      { withQueue [.msg [0x61] 0 0, .hb] with par := { Params.default with qdepth := .fin 2 } }).map (·.out.ret) =
    some [.rejected .queueFull] := by decide
/-- S4: the first line. -/
theorem test_set_hsack : (afterExec .setHsack State.reset).map (·.blk.phs) = some true := by decide
/-- S10. -/
theorem test_set_ack : (afterExec (.setAck 4) (withBlock { Block.reset with pack := 3 })).map (·.blk.pack) = some 4 := by
  decide
/-- S16. -/
theorem test_set_ack_zero : (afterExec (.setAck 0) (withBlock { Block.reset with pack := 7 })).map (·.blk.pack) = some 7 := by
  decide
/-- S1: a matching and a stale ack. -/
theorem test_ack_rx : (afterExec (.ackRx 1) (withQueue [.msg hi 1 2])).map (fun t => (t.out.ret, t.blk.q)) =
    some ([.popped], []) := by decide
/-- S12 and S15: a message not yet sent, and a heartbeat, are not acknowledged, not even by 0. -/
theorem test_ack_rx_ignored :
    (afterExec (.ackRx 0) (withQueue [.msg hi 0 0])).map (fun t => (t.out.ret, t.blk.q)) =
        some ([.ignored], [.msg hi 0 0]) ∧
      (afterExec (.ackRx 5) (withQueue [.hb])).map (fun t => (t.out.ret, t.blk.q)) = some ([.ignored], [.hb]) := by
  decide
/-- S17. -/
theorem test_clear : (afterExec .clear (withBlock
      { rb := [0x55, 0xAA, 0x00], q := [.msg hi 1 1, .hb], nid := 2, pack := 3, phs := true, fault := none })).map
      (·.blk) =
    some { rb := [0x55, 0xAA, 0x00], q := [], nid := 1, pack := 0, phs := false, fault := none } := by decide
/-- P6 line 5: RESET leaves the fault. -/
theorem test_reset : (afterExec .reset (withBlock
      { rb := [0x55, 0xAA], q := [.msg hi 1 1], nid := 2, pack := 3, phs := false, fault := some .payloadTooLong })).map
      (·.blk) =
    some { rb := [], q := [], nid := 1, pack := 0, phs := false, fault := none } := by decide
/-- S2: two heartbeats before a message. -/
theorem test_tick_collapse : (afterExec .tick (withQueue [.hb, .hb, .msg [0x41] 0 0])).map
      (fun t => (t.out.tx, t.blk.q, t.blk.nid)) =
    some ([[0x55, 0xAA, 0, 0, 1, 0, 1, 0x41, 0x41, 0xCC, 0x33]], [.msg [0x41] 1 1], 2) := by decide
/-- P6 line 2: refused while faulted. -/
theorem test_tick_faulted : (afterExec .tick faultedState).map (fun t => (t.out.ret, t.out.tx)) =
    some ([.rejected .faulted], []) := by decide
/-- S4. -/
theorem test_t_hsack : (afterExec .tHsack (withBlock
      { Block.reset with q := [.msg hi 0 0], pack := 4, phs := true })).map
      (fun t => (t.out.tx, t.blk.q, t.blk.pack, t.blk.phs)) =
    some ([frameK5], [.msg hi 0 0], 4, false) := by decide
/-- S2: the first of the two passes. -/
theorem test_t_collapse : (afterExec .tCollapse (withQueue [.hb, .hb, .msg [0x41] 0 0])).map
      (fun t => (t.out.tx, t.blk.q)) = some ([], [.hb, .msg [0x41] 0 0]) := by decide
/-- A lone heartbeat is not collapsed (S11). -/
theorem test_t_collapse_lone : afterExec .tCollapse (withQueue [.hb]) = none := by decide
/-- S6. -/
theorem test_t_hb : (afterExec .tHb (withBlock { Block.reset with q := [.hb], pack := 1 })).map
      (fun t => (t.out.tx, t.blk.q, t.blk.pack)) = some ([frameK3], [], 0) := by decide
/-- S3: the ack goes out once, and the entry stays. -/
theorem test_t_msg : (afterExec .tMsg (withBlock { Block.reset with q := [.msg hi 0 0], pack := 9 })).map
      (fun t => (t.out.tx, t.blk.q, t.blk.nid, t.blk.pack)) =
    some ([[0x55, 0xAA, 0x00, 0x09, 0x01, 0x00, 0x02, 0x68, 0x69, 0x0B, 0xCC, 0x33]], [.msg hi 1 1], 2, 0) := by decide
/-- S8: after 255 comes 1. -/
theorem test_t_msg_wrap : (afterExec .tMsg (withBlock
      { Block.reset with q := [.msg [0x61] 0 0, .msg [0x62] 0 0], nid := 255 })).map
      (fun t => (t.out.tx, t.blk.q, t.blk.nid)) =
    some ([[0x55, 0xAA, 0x00, 0x00, 0xFF, 0x00, 0x01, 0x61, 0x9F, 0xCC, 0x33]],
      [.msg [0x61] 255 1, .msg [0x62] 0 0], 1) := by decide
/-- S7: the seventh tick. -/
theorem test_t_exhausted : (afterExec .tExhausted (withQueue [.msg [0x6D] 1 6])).map
      (fun t => (t.out.evt, t.out.tx, t.blk.q)) = some ([.retryExhausted 1], [], [.msg [0x6D] 1 6]) := by decide
/-- S18, RETRY_MAX = 0: the second tick. -/
theorem test_t_exhausted_no_retry : (afterExec .tExhausted
      { withQueue [.msg [0x6D] 1 1] with par := { Params.default with retryMax := .fin 0 } }).map (·.out.evt) =
    some [.retryExhausted 1] := by decide
/-- S5. -/
theorem test_t_bareack : (afterExec .tBareack (withBlock { Block.reset with pack := 1 })).map
      (fun t => (t.out.tx, t.blk.pack)) = some ([frameK3], 0) := by decide
/-- S5, the last line. -/
theorem test_t_idle : (afterExec .tIdle State.reset).map (fun t => (t.out.ret, t.out.tx)) =
    some ([.arm .idle], []) := by decide

/-! ## Received forms and the host -/

/-- H3: resume without a handshake. -/
theorem test_ctrl0 : (afterExec (.ctrl0 5 []) State.reset).map (fun t => (t.out.note, t.host.conn, t.blk.q)) =
    some ([.connectSucceeded true], .connected, []) := by decide
/-- P1 line 15. -/
theorem test_ctrl0_pops :
    (afterExec (.ctrl0 1 []) { withConn .connected true true with blk := { Block.reset with q := [.msg hi 1 1], nid := 2 } }).map
      (fun t => (t.out.ret, t.out.note, t.blk.q)) = some ([.popped], [], []) := by decide
/-- H1: the first, and the repeat. -/
theorem test_data : (afterExec (.data 0 1 hi) (withConn .connected true true)).map
      (fun t => (t.out.note, t.blk.pack, t.host.lastId)) = some ([.messageReceived hi], 1, some 1) := by decide
theorem test_data_repeat :
    (afterExec (.data 0 1 hi)
      { withConn .connected true true with host := { (withConn .connected true true).host with lastId := some 1 } }).map
      (fun t => (t.out.note, t.blk.pack)) = some ([], 1) := by decide
/-- H2: the first, and one 500 ms later. -/
theorem test_handshake : (afterExec (.handshake 0 0 []) State.reset).map
      (fun t => (t.out.note, t.blk.phs, t.host.conn)) = some ([.connectSucceeded false], true, .connected) := by decide
theorem test_handshake_debounced :
    (afterExec (.handshake 0 0 [])
      { withConn .connected true true with
        host := { (withConn .connected true true).host with lastHs := some 0, now := 500 } }).map
      (fun t => (t.out, t.blk.phs)) = some ({}, false) := by decide
/-- P1 line 7. -/
theorem test_handshake_ack : (afterExec (.handshakeAck 0 0 []) (withConn .awaitingHandshake false false)).map
      (fun t => (t.host.conn, t.host.sendTimer, t.blk.q)) = some (.connected, true, []) := by decide
/-- M15, R160: an unknown kind does nothing, its ack field included. -/
theorem test_unknown : (afterExec (.unknown 7 1 0 []) (withQueue [.msg hi 1 1])).map (fun t => (t.out, t.blk.q)) =
    some ({}, [.msg hi 1 1]) := by decide
/-- P1 lines 1 and 2: connect(). -/
theorem test_connect : (afterStep (withInputs [.host .connect])).map (fun t => (t.out.tx, t.host.conn)) =
    some ([frameK4], .awaitingHandshake) := by decide
/-- R165: the tick that presents RETRY_EXHAUSTED hands it to the host, and the host's answer is a disconnect, which is
CLEAR. -/
theorem test_t_exhausted_event : (afterExec .tick (withQueue [.msg [0x6D] 1 6])).map (·.host.exhausted) = some (some 1) := by
  decide
theorem test_answer_exhausted :
    (afterStep { withConn .connected true true with
      blk := { Block.reset with q := [.msg [0x6D] 1 6], nid := 2 }
      host := { (withConn .connected true true).host with exhausted := some 1 }
      inbox := [.host .answerExhausted] }).map (fun t => (t.out.note, t.host.conn, t.blk.q)) =
    some ([.disconnected], .disconnected, []) := by decide
/-- R161, I10: silence past the deadline, in direct mode. -/
theorem test_direct_mode_never_times_out :
    (afterStep { withConn .connected true true with
      par := { Params.default with direct := true }
      host := { (withConn .connected true true).host with deadline := .fin 6000 }
      inbox := [.host (.elapse 6001)] }).map (fun t => (t.host.conn, t.out.note)) = some (.connected, []) := by decide
/-- R171, the fault row: the host issues no TICK, and leaves its packet where it is. -/
theorem test_fault_row_tick :
    (afterStep { withConn .connected true true with blk := faultedState.blk, inbox := [.sendTimer] }).map (·.out) =
    some {} := by decide
theorem test_fault_row_take :
    (afterStep { withConn .connected true true with
      blk := faultedState.blk
      host := { (withConn .connected true true).host with todo := [packetK1] }
      inbox := [.take] }).map (fun t => (t.out, t.host.todo)) = some ({}, [packetK1]) := by decide
/-- Nothing pending: an idle step (log 3). -/
theorem test_idle_step : afterStep State.reset = some State.reset := by decide
/-- R222: the numbers of the causes and events the source's text quotes (K17). -/
theorem test_codes : causeCode .payloadTooLong = 0x01#8 ∧ causeCode .faulted = 0x24#8 ∧
    eventCode (.retryExhausted 1) = 0x30#8 ∧ faultRecord faultedState.blk = (1#1, 0x01#8) := by decide

/-! ## Witnesses: for each obligation with hypotheses, data that meet them all

Where an obligation's only hypothesis is that the block is not faulted, the reset state meets it. -/

theorem witness_XorsumReturnsTheXor : State.reset.blk.fault = none := by decide
theorem witness_VerifyReportsTheFirstDefect : State.reset.blk.fault = none ∧ frameK1.length = 12 := by decide
/-- An empty payload, and the largest. -/
theorem witness_EncodeBuildsTheFrame :
    State.reset.blk.fault = none ∧ ([] : List Byte).length ≤ 1014 ∧ (zeros 1014).length ≤ 1014 := by
  exact ⟨by decide, by decide, by simp [zeros_length]⟩
/-- The smallest payload that does not fit. -/
theorem witness_OversizeEncodeFaults :
    State.reset.blk.fault = none ∧ 1014 < (zeros 1015).length := by
  exact ⟨by decide, by simp [zeros_length]⟩
/-- A slice VERIFY accepts, and one it rejects. -/
theorem witness_DecodeReturnsTheFields :
    State.reset.blk.fault = none ∧ verifyFrame frameK1 = .ok ∧ verifyFrame [] ≠ .ok := by decide
theorem witness_CodecRoundTrip : hi.length ≤ 1014 ∧ decodePacket frameK1 = some packetK1 := by decide
/-- V12's frame, a bit in each field: sync, kind, the length, the checksum, the trailer's last bit. -/
theorem witness_SingleBitFlipIsCaught :
    decodePacket frameK1 ≠ none ∧ 0 < frameK1.length ∧ 2 < frameK1.length ∧ 6 < frameK1.length ∧
      9 < frameK1.length - 2 ∧ 11 < frameK1.length ∧ 7 < 8 := by decide
/-- One frame for each row of the table. -/
theorem witness_FormIsTheFirstMatchingRow :
    decodePacket frameK1 ≠ none ∧ decodePacket frameK3 ≠ none ∧ decodePacket frameK4 ≠ none ∧
      decodePacket frameK5 ≠ none ∧ decodePacket frameK9 ≠ none := by decide
/-- An operation, a form, an emitted frame, an arm. -/
theorem witness_DecodeOfEncodeAgrees :
    (WellFormed (.setAck 1) = true ∧ isOperation (.setAck 1) = true) ∧
      (WellFormed (.data 0 255 hi) = true ∧ isForm (.data 0 255 hi) = true) ∧
      (WellFormed (.txBareAck 1) = true ∧ isEmission (.txBareAck 1) = true) ∧
      (WellFormed .tIdle = true ∧ isOperation .tIdle = false ∧ isForm .tIdle = false ∧ isEmission .tIdle = false) := by
  decide
theorem witness_EncodeOfDecodeAgrees :
    decodeCommand [0x33, 0x01] = .ok (.setAck 1) ∧ decodeFrame frameK9 = .ok (.unknown 7 0 0 []) := by decide
/-- O8, and the codes next to the table's. -/
theorem witness_UnknownCodeIsRejected :
    (withInputs [.command [0x40]]).inbox = [.command [0x40]] ∧
      (0x40#8).toNat ∉ [0x01, 0x10, 0x11, 0x12, 0x13, 0x20, 0x21, 0x30, 0x31, 0x32, 0x33, 0x34, 0x35, 0x36] ∧
      (0x37#8).toNat ∉ [0x01, 0x10, 0x11, 0x12, 0x13, 0x20, 0x21, 0x30, 0x31, 0x32, 0x33, 0x34, 0x35, 0x36] ∧
      (0x00#8).toNat ∉ [0x01, 0x10, 0x11, 0x12, 0x13, 0x20, 0x21, 0x30, 0x31, 0x32, 0x33, 0x34, 0x35, 0x36] := by decide
/-- One state for each kind of input. -/
theorem witness_StepRunsTheInstruction :
    ((withInputs [.command [0x35]]).inbox = [.command [0x35]] ∧ decodeCommand [0x35] = .ok .tick) ∧
      (withInputs [.chunk frameK1]).inbox = [.chunk frameK1] ∧
      (withConn .connected true true).host.sendTimer = true ∧ (withConn .connected true true).host.hbTimer = true ∧
      ({ HostState.reset with todo := [packetK1] } : HostState).todo = [packetK1] ∧
      (withInputs [.take]).inbox = [.take] ∧ (withInputs [.sendMessage hi]).inbox = [.sendMessage hi] ∧
      (withInputs [.sendHandshake]).inbox = [.sendHandshake] ∧
      ((withInputs [.sendTimer]).inbox = [.sendTimer] ∧ (withInputs [.sendTimer]).host.sendTimer = false) ∧
      ((withInputs [.hbTimer]).inbox = [.hbTimer] ∧ (withInputs [.hbTimer]).host.hbTimer = false) ∧
      (withInputs [.take]).host.todo = [] ∧ State.reset.inbox = [] ∧ State.reset.blk.fault = none ∧
      faultedState.blk.fault ≠ none ∧ ({ faultedState with inbox := [.host .connect] } : State).inbox = [.host .connect] ∧
      Input.host .connect ∈ [Input.sendTimer, .hbTimer, .take, .sendHandshake, .host .connect] := by decide
/-- Each of the three faults, and a step that goes on. -/
theorem witness_StepStopsOnlyOnMalformedCommands :
    decodeCommand [] = .error .commandEmpty ∧ decodeCommand [0x33] = .error .operandsMissing ∧
      decodeCommand [0x35, 0x00] = .error .operandsLeftOver ∧
    afterStep (withInputs [.command []]) = none ∧ afterStep (withInputs [.command [0x33]]) = none ∧
      afterStep (withInputs [.command [0x35, 0x00]]) = none ∧ afterStep (withInputs [.command [0x35]]) ≠ none := by decide
theorem witness_EmittedFramesGoOut : State.reset.blk.fault = none ∧ hi.length ≤ 1014 := by decide

theorem fits_default (c : List Byte) : ChunkFits State.reset.par c := by
  intro m h; cases h
/-- A bound met exactly, and a chunk one byte over it (M26). -/
theorem witness_RxPushEndsAtRest :
    State.reset.blk.fault = none ∧ ChunkFits { Params.default with chunkMax := .fin 16 } (List.replicate 16 0#8) ∧
      ¬ ChunkFits { Params.default with chunkMax := .fin 16 } (List.replicate 17 0#8) := by
  refine ⟨by decide, ?_, ?_⟩
  · intro m h; cases h; decide
  · intro h; exact absurd (h 16 rfl) (by decide)
/-- Seven bytes, the fewest that are examined. -/
theorem witness_SkipDropsOneByte :
    (withBuffer [1, 2, 3, 4, 5, 6, 7]).blk.fault = none ∧ 7 ≤ (withBuffer [1, 2, 3, 4, 5, 6, 7]).blk.rb.length ∧
      (withBuffer [1, 2, 3, 4, 5, 6, 7]).blk.rb.take 2 ≠ [0x55#8, 0xAA#8] ∧
      7 ≤ (State.reset.blk.rb ++ [0x55, 0xAB, 3, 4, 5, 6, 7]).length ∧
      (State.reset.blk.rb ++ [0x55, 0xAB, 3, 4, 5, 6, 7]).take 2 ≠ [0x55#8, 0xAA#8] ∧
      ChunkFits State.reset.par [0x55, 0xAB, 3, 4, 5, 6, 7] := by
  refine ⟨by decide, by decide, by decide, by decide, by decide, fits_default _⟩
/-- L = 1015. -/
theorem witness_DiscardEmptiesTheBuffer :
    (withBuffer [0x55, 0xAA, 0, 0, 1, 0x03, 0xF7]).blk.fault = none ∧
      7 ≤ (withBuffer [0x55, 0xAA, 0, 0, 1, 0x03, 0xF7]).blk.rb.length ∧
      (withBuffer [0x55, 0xAA, 0, 0, 1, 0x03, 0xF7]).blk.rb.take 2 = [0x55#8, 0xAA#8] ∧
      1014 < declaredLen (withBuffer [0x55, 0xAA, 0, 0, 1, 0x03, 0xF7]).blk.rb ∧
      1014 < declaredLen (State.reset.blk.rb ++ [0x55, 0xAA, 0, 0, 1, 0x03, 0xF7]) ∧
      ChunkFits State.reset.par [0x55, 0xAA, 0, 0, 1, 0x03, 0xF7] := by
  refine ⟨by decide, by decide, by decide, by decide, by decide, fits_default _⟩
/-- L = 1014 with seven bytes held, and a frame one byte short. -/
theorem witness_WaitConsumesNothing :
    (withBuffer [0x55, 0xAA, 0, 0, 1, 0x03, 0xF6]).blk.fault = none ∧
      7 ≤ (withBuffer [0x55, 0xAA, 0, 0, 1, 0x03, 0xF6]).blk.rb.length ∧
      (withBuffer [0x55, 0xAA, 0, 0, 1, 0x03, 0xF6]).blk.rb.take 2 = [0x55#8, 0xAA#8] ∧
      declaredLen (withBuffer [0x55, 0xAA, 0, 0, 1, 0x03, 0xF6]).blk.rb ≤ 1014 ∧
      (withBuffer [0x55, 0xAA, 0, 0, 1, 0x03, 0xF6]).blk.rb.length <
        10 + declaredLen (withBuffer [0x55, 0xAA, 0, 0, 1, 0x03, 0xF6]).blk.rb ∧
      declaredLen (State.reset.blk.rb ++ frameK1.take 11) ≤ 1014 ∧
      (State.reset.blk.rb ++ frameK1.take 11).length < 10 + declaredLen (State.reset.blk.rb ++ frameK1.take 11) ∧
      (State.reset.blk.rb ++ frameK1.take 11).take 2 = [0x55#8, 0xAA#8] ∧
      7 ≤ (State.reset.blk.rb ++ frameK1.take 11).length ∧ ChunkFits State.reset.par (frameK1.take 11) := by
  refine ⟨by decide, by decide, by decide, by decide, by decide, by decide, by decide, by decide, by decide, fits_default _⟩
/-- A frame held exactly. -/
theorem witness_ExtractCutsOneFrame :
    (withBuffer frameK1).blk.fault = none ∧ 7 ≤ (withBuffer frameK1).blk.rb.length ∧ (withBuffer frameK1).blk.rb.take 2 = [0x55#8, 0xAA#8] ∧
      declaredLen (withBuffer frameK1).blk.rb ≤ 1014 ∧
      10 + declaredLen (withBuffer frameK1).blk.rb ≤ (withBuffer frameK1).blk.rb.length ∧
      10 + declaredLen (State.reset.blk.rb ++ frameK1) ≤ (State.reset.blk.rb ++ frameK1).length ∧
      (State.reset.blk.rb ++ frameK1).take 2 = [0x55#8, 0xAA#8] ∧ declaredLen (State.reset.blk.rb ++ frameK1) ≤ 1014 ∧
      ChunkFits State.reset.par frameK1 := by
  refine ⟨by decide, by decide, by decide, by decide, by decide, by decide, by decide, by decide, fits_default _⟩
/-- Six bytes, the most that are left alone. -/
theorem witness_ShortBufferIsLeftAlone :
    (withBuffer [1, 2, 3, 4, 5, 6]).blk.fault = none ∧ (withBuffer [1, 2, 3, 4, 5, 6]).blk.rb.length < 7 ∧ (State.reset.blk.rb ++ [1, 2, 3, 4, 5, 6]).length < 7 ∧
      ChunkFits State.reset.par [1, 2, 3, 4, 5, 6] := by
  refine ⟨by decide, by decide, by decide, fits_default _⟩
theorem witness_RxPushIsItsArms : State.reset.blk.fault = none ∧ ChunkFits State.reset.par (frameK1 ++ frameK3) :=
  ⟨by decide, fits_default _⟩
theorem witness_ExactlyOneArmIsSelected : State.reset.blk.fault = none := by decide
/-- A short rest, and a partial frame. -/
theorem witness_EmptyChunkChangesNothing :
    (withBuffer [0x55, 0xAA, 0, 0, 1]).blk.fault = none ∧ RbAtRest (withBuffer [0x55, 0xAA, 0, 0, 1]).blk.rb ∧
      (withBuffer (frameK1.take 11)).blk.fault = none ∧ RbAtRest (withBuffer (frameK1.take 11)).blk.rb := by decide
/-- M3: a frame cut before its last byte. -/
theorem witness_CutFrameIsReassembled :
    State.reset.blk.fault = none ∧ State.reset.blk.rb = [] ∧ decodePacket frameK1 = some packetK1 ∧
      [frameK1.take 11, frameK1.drop 11].flatten = frameK1 ∧
      ∀ c ∈ [frameK1.take 11, frameK1.drop 11], ChunkFits State.reset.par c :=
  ⟨by decide, by decide, by decide, by decide, fun c _ => fits_default c⟩
/-- M21: the garbage is half a sync pair. -/
theorem witness_GarbageBeforeFrameIsSkipped :
    State.reset.blk.fault = none ∧ State.reset.blk.rb = [] ∧ decodePacket frameK1 = some packetK1 ∧ noSyncPair [0x55] = true ∧
      ChunkFits State.reset.par ([0x55] ++ frameK1) :=
  ⟨by decide, by decide, by decide, by decide, fits_default _⟩
theorem witness_ChunkCutsAgreeWithoutDiscard :
    State.reset.blk.fault = none ∧ ChunkFits State.reset.par (frameK1.take 5 ++ frameK1.drop 5) ∧
      RsmArm.discard ∉ rsmTrace (State.reset.blk.rb ++ (frameK1.take 5 ++ frameK1.drop 5)).length
        (State.reset.blk.rb ++ (frameK1.take 5 ++ frameK1.drop 5)) :=
  ⟨by decide, fits_default _, by decide⟩
theorem witness_RxFlushEmptiesTheBuffer : (withBuffer [0x55, 0xAA, 0x00]).blk.fault = none := by decide

/-- 1015 bytes; a full queue; a queue with room. -/
theorem witness_EnqMsgQueuesAtTheTail :
    State.reset.blk.fault = none ∧ 1014 < (zeros 1015).length ∧
      (zeros 1014).length ≤ 1014 ∧
      ({ Params.default with qdepth := .fin 2 } : Params).qdepth = .fin (withQueue [.hb, .hb]).blk.q.length ∧
      ({ Params.default with qdepth := .fin 2 } : Params).qdepth ≠ .fin (withQueue [.hb]).blk.q.length := by
  refine ⟨by decide, ?_, ?_, by decide, by decide⟩ <;> simp [zeros_length]
theorem witness_EnqHbQueuesAHeartbeat :
    State.reset.blk.fault = none ∧
      ({ Params.default with qdepth := .fin 1 } : Params).qdepth = .fin (withQueue [.hb]).blk.q.length ∧
      State.reset.par.qdepth ≠ .fin State.reset.blk.q.length := by decide
theorem witness_SetHsackSetsThePendingConfirm : State.reset.blk.fault = none := by decide
theorem witness_SetAckOverwritesThePendingAck : State.reset.blk.fault = none ∧ (1#8 : Byte) ≠ 0#8 := by decide
/-- A matching head; operand 0; a head with another id; an empty queue. -/
theorem witness_AckRxPopsTheMatchingHead :
    (withQueue [.msg hi 1 1]).blk.fault = none ∧
      ((withQueue [.msg hi 1 1]).blk.q = .msg hi 1 1 :: [] ∧ (1#8 : Byte) ≠ 0#8 ∧ entryId (.msg hi 1 1) = 1#8) ∧
      (∀ e ∈ (withQueue [.msg hi 1 1]).blk.q.head?, entryId e ≠ 2#8) ∧
      (∀ e ∈ State.reset.blk.q.head?, entryId e ≠ 2#8) := by decide
theorem witness_ClearWipesTheScheduler : (withQueue [.msg hi 1 1, .hb]).blk.fault = none := by decide

/-- S4's state. -/
theorem witness_TickSendsHandshakeAckFirst :
    (withBlock { Block.reset with q := [.msg hi 0 0], pack := 4, phs := true }).blk.fault = none ∧
      (withBlock { Block.reset with q := [.msg hi 0 0], pack := 4, phs := true }).blk.phs = true := by decide
/-- S2's queue. -/
theorem witness_LeadingHeartbeatsCollapse :
    (withQueue [.hb, .hb, .msg [0x41] 0 0]).blk.fault = none ∧
      (withQueue [.hb, .hb, .msg [0x41] 0 0]).blk.phs = false ∧
      (withQueue [.hb, .hb, .msg [0x41] 0 0]).blk.q = .hb :: .hb :: [.msg [0x41] 0 0] ∧
      (withQueue [.hb, .hb, .msg [0x41] 0 0]).blk.q = List.replicate 2 .hb ++ .msg [0x41] 0 0 :: [] ∧
      PayloadsFit (.msg [0x41] 0 0 :: []) := by decide
theorem witness_LoneHeartbeatCarriesTheAck :
    (withQueue [.hb]).blk.fault = none ∧ (withQueue [.hb]).blk.phs = false ∧ (withQueue [.hb]).blk.q = [.hb] ∧
      (withQueue [.hb, .hb]).blk.fault = none ∧ (withQueue [.hb, .hb]).blk.phs = false ∧
      (withQueue [.hb, .hb]).blk.q = List.replicate (1 + 1) .hb := by decide
/-- A first transmission at NID 255, and the last one RETRY_MAX = 5 allows. -/
theorem witness_HeadMessageGoesOut :
    (withBlock { Block.reset with q := [.msg hi 0 0], nid := 255 }).blk.fault = none ∧
      (withBlock { Block.reset with q := [.msg hi 0 0], nid := 255 }).blk.phs = false ∧
      (withQueue [.msg hi 1 5]).blk.fault = none ∧ (withQueue [.msg hi 1 5]).blk.phs = false ∧
      (withBlock { Block.reset with q := [.msg hi 0 0], nid := 255 }).blk.q = .msg hi 0 0 :: [] ∧ hi.length ≤ 1014 ∧
      (withQueue [.msg hi 1 5]).blk.q = .msg hi 1 5 :: [] ∧ MaySend State.reset.par 0 ∧ MaySend State.reset.par 5 := by
  refine ⟨by decide, by decide, by decide, by decide, by decide, by decide, by decide, ?_, ?_⟩ <;>
    (intro m h; cases h; decide)
/-- The first count RETRY_MAX = 5 forbids. -/
theorem witness_ExhaustedHeadOnlyRaisesTheEvent :
    (withQueue [.msg hi 1 6]).blk.fault = none ∧ (withQueue [.msg hi 1 6]).blk.q = .msg hi 1 6 :: [] ∧
      (withQueue [.msg hi 1 6]).blk.phs = false ∧
      State.reset.par.retryMax = .fin 5 ∧ 1 + 5 ≤ 6 := by decide
theorem witness_BareAckGoesOutAlone :
    (withBlock { Block.reset with pack := 1 }).blk.fault = none ∧
      (withBlock { Block.reset with pack := 1 }).blk.phs = false ∧
      (withBlock { Block.reset with pack := 1 }).blk.q = [] ∧ (withBlock { Block.reset with pack := 1 }).blk.pack ≠ 0#8 := by
  decide
theorem witness_IdleTickDoesNothing :
    State.reset.blk.fault = none ∧ State.reset.blk.phs = false ∧ State.reset.blk.q = [] ∧ State.reset.blk.pack = 0#8 := by
  decide
theorem witness_TickIsCollapsesThenOneArm :
    (withQueue [.hb, .hb, .msg [0x41] 0 0]).blk.fault = none ∧
      PayloadsFit (withQueue [.hb, .hb, .msg [0x41] 0 0]).blk.q := by decide
/-- An ack waiting behind a message, and behind an exhausted one. -/
theorem witness_PendingAckRidesTheOneFrame :
    (withBlock { Block.reset with q := [.msg hi 0 0], pack := 9 }).blk.fault = none ∧
      (withBlock { Block.reset with q := [.msg hi 0 0], pack := 9 }).blk.phs = false ∧
      PayloadsFit (withBlock { Block.reset with q := [.msg hi 0 0], pack := 9 }).blk.q ∧
      (withBlock { Block.reset with q := [.msg hi 0 0], pack := 9 }).blk.pack ≠ 0#8 ∧
      PayloadsFit (withBlock { Block.reset with q := [.msg hi 1 6], pack := 9 }).blk.q ∧
      (afterExec .tick (withBlock { Block.reset with q := [.msg hi 1 6] })).map (·.out.ret) = some [.arm .exhausted] := by
  decide
/-- S7; the counts below, at and above the bound. -/
theorem witness_RetryBoundIsKept :
    (withQueue [.msg [0x6D] 0 0]).blk.fault = none ∧ ([0x6D] : List Byte).length ≤ 1014 ∧
      (withQueue [.msg [0x6D] 0 0]).blk.q = .msg [0x6D] 0 0 :: [] ∧ (withQueue [.msg [0x6D] 0 0]).blk.phs = false ∧
      (withQueue [.msg [0x6D] 0 0]).blk.nid ≠ 0#8 ∧ (withQueue [.msg [0x6D] 0 0]).par.retryMax = .fin 5 ∧
      5 < 1 + 5 ∧ 1 + 5 ≤ 6 := by decide
/-- A tick, and another id's ack. -/
theorem witness_InFlightMessageStaysAtTheHead :
    (withQueue [.msg hi 1 1, .hb]).blk.q = .msg hi 1 1 :: [.hb] ∧ (1#8 : Byte) ≠ 0#8 ∧ mayRelease 1 .tick = false ∧
      afterExec .tick (withQueue [.msg hi 1 1, .hb]) ≠ none ∧ mayRelease 1 (.ackRx 2) = false ∧
      afterExec (.ackRx 2) (withQueue [.msg hi 1 1, .hb]) ≠ none := by decide

theorem witness_FaultedBlockRefusesAllButReset :
    faultedState.blk.fault = some .payloadTooLong ∧ Instr.tick ≠ .reset ∧ isOperation .tick = true := by decide
/-- K17 as a command, written with its payload's count by hand: 1015 = 03 F7. -/
theorem witness_OnlyAnOversizeEncodeFaults :
    Inv (withInputs [.command ([0x12, 0, 0, 0, 0x03, 0xF7] ++ zeros 1015)]) ∧
      ∃ t, step (withInputs [.command ([0x12, 0, 0, 0, 0x03, 0xF7] ++ zeros 1015)]) = .next t ∧
        t.blk.fault ≠ none := by
  refine ⟨?_, ?_⟩
  · exact (by decide : Inv State.reset)
  · have hd : decodeCommand ([0x12, 0, 0, 0, 0x03, 0xF7] ++ zeros 1015) =
        .ok (.encode 0 0 0 (zeros 1015)) := by
      simp [decodeCommand, decodeOp, opOfByte, opCodes, opByte, operandsOf, encodeOperands, seqOperand, be16, zeros_length,
        List.take_of_length_le, List.drop_of_length_le]
    refine ⟨_, by simp only [step, fetch, withInputs, fetchInput, fetchCommand, hd]; rfl, ?_⟩
    simp [opEncode, gated, faulted, encodeFrame, raiseFault, State.reset, Block.reset, quiet, zeros_length]
theorem witness_AccessTableHolds :
    isOperation (.encode 0 0 0 []) = true ∧ isOperation .tick = true ∧ PayloadsFit (withQueue [.msg hi 1 1]).blk.q := by
  decide
/-- Two machines that differ in the host and in what is pending. -/
theorem witness_BlockIgnoresTheHost :
    isOperation .tick = true ∧ State.reset.blk = (withConn .connected true true).blk ∧
      State.reset.par = (withConn .connected true true).par ∧ State.reset.host ≠ (withConn .connected true true).host := by
  decide
theorem witness_PortRecordIsNotRead : afterStep (withInputs [.chunk frameK1]) ≠ none := by decide
theorem witness_EveryStepKeepsTheInvariant :
    Inv State.reset ∧ Inv { withConn .connected true true with inbox := [.sendTimer] } ∧
      afterStep { withConn .connected true true with inbox := [.sendTimer] } ≠ none := by decide

theorem witness_DataIsAckedAndDeliveredOnce : State.reset.blk.fault = none ∧ (1#8 : Byte) ≠ 0#8 := by decide
/-- A resume, no ack, and an ack while Connected. -/
theorem witness_Ctrl0RefreshesOrResumes :
    State.reset.blk.fault = none ∧ ((5#8 : Byte) ≠ 0#8 ∧ State.reset.host.conn ≠ .connected) ∧
      (withConn .connected true true).host.conn = .connected := by decide
/-- A gap of 999 ms, a gap of exactly 1000 ms, and no handshake before. -/
theorem witness_HandshakeIsDebouncedOrAccepted :
    (999 < 0 + State.reset.par.handshakeSpacing) ∧ (0 + State.reset.par.handshakeSpacing ≤ 1000) ∧
      State.reset.host.lastHs = none ∧ State.reset.blk.fault = none ∧
      (withConn .connected true true).host.conn = .connected := by decide
theorem witness_HandshakeAckCompletesAndUnknownIsIgnored :
    State.reset.blk.fault = none ∧ (withConn .awaitingHandshake false false).host.conn = .awaitingHandshake ∧
      State.reset.host.conn ≠ .awaitingHandshake := by decide
/-- A Connected host, and one already disconnected; each cause; a faulted block. -/
theorem witness_NoStaleTickAfterDisconnect :
    HostInv (withConn .connected true true).host ∧ HostInv State.reset.host ∧
      HostInv { (withConn .connected true true).host with exhausted := some 1 } ∧
      (withInputs [.host .disconnect, .sendTimer, .hbTimer]).inbox = .host .disconnect :: .sendTimer :: .hbTimer :: [] ∧
      (withInputs [.host .ioError, .sendTimer, .hbTimer]).inbox = .host .ioError :: .sendTimer :: .hbTimer :: [] ∧
      (withInputs [.host .answerExhausted, .sendTimer, .hbTimer]).inbox =
        .host .answerExhausted :: .sendTimer :: .hbTimer :: [] ∧
      ({ (withConn .connected true true).host with exhausted := some 1 } : HostState).exhausted ≠ none ∧
      (withInputs [.host (.elapse 6001), .sendTimer, .hbTimer]).inbox =
        .host (.elapse 6001) :: .sendTimer :: .hbTimer :: [] ∧
      HostInv { (withConn .connected true true).host with deadline := .fin 6000 } ∧ 6000 < 0 + 6001 ∧
      (withConn .connected true true).par.direct = false ∧
      State.reset.host.exhausted = none ∧ faultedState.blk.fault ≠ none := by decide
/-- Both ways to connect; the deadline's last moment, and one millisecond later; no deadline; a host that is Disconnected;
direct mode; a faulted block. -/
theorem witness_ConnectAndSilenceActOnTheConnection :
    (withInputs [.host .connect]).blk.fault = none ∧ (withInputs [.host .connect]).inbox = .host .connect :: [] ∧
      (withInputs [.host (.elapse 6001)]).inbox = .host (.elapse 6001) :: [] ∧ State.reset.par.direct = false ∧
      ({ Params.default with direct := true } : Params).direct = true ∧
      (withConn .connected true true).host.conn ≠ .disconnected ∧ State.reset.host.conn = .disconnected ∧
      ({ HostState.reset with conn := .connected, deadline := .fin 6000 } : HostState).deadline = .fin 6000 ∧
      State.reset.host.deadline = .inf ∧ (0 + 6000 ≤ 6000) ∧ (6000 < 0 + 6001) ∧
      (withInputs [.host .isConnected]).inbox = .host .isConnected :: [] ∧ faultedState.blk.fault ≠ none := by decide

end Sys2Proof.Tests
end

section
/-! The Stream Reassembler's arms (41_reassembler.md R132-R137): what one arm run by itself leaves, what RX_PUSH leaves, and
from the loop's equation at each arm how RX_PUSH ends or goes on. -/

namespace Sys2Proof.Machine

/-! ## One arm, and the whole loop, as a step -/

/-- An arm's instruction is one guarded pass of the loop with that arm's effect (R36 a). -/
theorem exec_rsmInstr (a : RsmArm) (s : State) : exec (rsmInstr a) s = execRsm a (fun rb => rsmRun rb a) s := by
  cases a <;> rfl

/-- The arm the selector chooses completes with its effect on RB, and presents its packets (R97, R132-R137). -/
theorem exec_rsmInstr_selected {a : RsmArm} {s : State} (hf : s.blk.fault = none) (ha : rsmArm s.blk.rb = a) :
    exec (rsmInstr a) s = .next { s with
      blk := { s.blk with rb := (rsmRun s.blk.rb a).1 }
      host := { s.host with todo := s.host.todo ++ (rsmRun s.blk.rb a).2 }
      out := { rx := (rsmRun s.blk.rb a).2 } } := by
  have hsel : execRsm a (fun rb => rsmRun rb a) s = perform (opRsm fun rb => rsmRun rb a) s := by
    simp [execRsm, ha]
  rw [exec_rsmInstr, hsel, perform_eq, opRsm, gated_of_no_fault hf]
  rfl

/-- A chosen arm that presents nothing writes RB alone. -/
theorem exec_rsmInstr_no_packet {a : RsmArm} {s : State} {rb : List Byte} (hf : s.blk.fault = none)
    (ha : rsmArm s.blk.rb = a) (hrun : rsmRun s.blk.rb a = (rb, [])) :
    exec (rsmInstr a) s = .next { s with blk := { s.blk with rb := rb }, out := {} } := by
  simp [exec_rsmInstr_selected hf ha, hrun]

/-- RX_PUSH of a chunk that fits leaves what the loop leaves, and returns and presents the loop's packets (R130). -/
theorem exec_rxPush_fits {s : State} {c : List Byte} (hf : s.blk.fault = none) (hc : ChunkFits s.par c) :
    exec (.rxPush c) s = .next { s with
      blk := { s.blk with rb := (reassemble (s.blk.rb ++ c)).1 }
      host := { s.host with todo := s.host.todo ++ (reassemble (s.blk.rb ++ c)).2 }
      out := { ret := [.packets (reassemble (s.blk.rb ++ c)).2], rx := (reassemble (s.blk.rb ++ c)).2 } } := by
  have hop : exec (.rxPush c) s = perform (opRxPush c) s := rfl
  rw [hop, perform_eq, opRxPush_fits hf hc]
  rfl

/-- RX_PUSH whose loop presents nothing writes RB alone. -/
theorem exec_rxPush_no_packet {s : State} {c rb : List Byte} (hf : s.blk.fault = none) (hc : ChunkFits s.par c)
    (hloop : reassemble (s.blk.rb ++ c) = (rb, [])) :
    exec (.rxPush c) s = .next { s with blk := { s.blk with rb := rb }, out := { ret := [.packets []] } } := by
  simp [exec_rxPush_fits hf hc, hloop]

/-- The empty chunk fits under every bound. -/
theorem chunkFits_nil (par : Params) : ChunkFits par [] := fun m _ => Nat.zero_le m

/-- RX_PUSH of the empty chunk is the loop run on what RB already holds. -/
theorem exec_rxPush_nil {s : State} (rb : List Byte) (hf : s.blk.fault = none) :
    exec (.rxPush []) { s with blk := { s.blk with rb := rb } } = .next { s with
      blk := { s.blk with rb := (reassemble rb).1 }
      host := { s.host with todo := s.host.todo ++ (reassemble rb).2 }
      out := { ret := [.packets (reassemble rb).2], rx := (reassemble rb).2 } } := by
  simpa only [List.append_nil] using
    exec_rxPush_fits (s := { s with blk := { s.blk with rb := rb } }) hf (chunkFits_nil s.par)

/-! ## The five arms -/

/-- Settles O17: RX_PUSH goes on from what is left because the loop on RB is the loop on RB without its first byte. -/
theorem skipDropsOneByte : Obligations.SkipDropsOneByte := by
  refine ⟨fun s hf hlen hsync => ?_, fun s c hf hc hlen hsync => ?_⟩
  · exact exec_rsmInstr_no_packet hf (rsmArm_skip hlen hsync) rfl
  · rw [exec_rxPush_nil _ hf, exec_rxPush_fits hf hc, reassemble_skip (rsmArm_skip hlen hsync)]

/-- Settles O18: after the discard nothing is held, so the loop ends with no packet. -/
theorem discardEmptiesTheBuffer : Obligations.DiscardEmptiesTheBuffer := by
  refine ⟨fun s hf hlen hsync hbig => ?_, fun s c hf hc hlen hsync hbig => ?_⟩
  · exact exec_rsmInstr_no_packet hf (rsmArm_discard hlen hsync hbig) rfl
  · exact exec_rxPush_no_packet hf hc (reassemble_discard (rsmArm_discard hlen hsync hbig))

/-- Settles O19: the arm ends the loop with RB as it was. -/
theorem waitConsumesNothing : Obligations.WaitConsumesNothing := by
  refine ⟨fun s hf hlen hsync hfits hshort => ?_, fun s c hf hc hlen hsync hfits hshort => ?_⟩
  · exact exec_rsmInstr_no_packet hf (rsmArm_wait hlen hsync hfits hshort) rfl
  · exact exec_rxPush_no_packet hf hc (reassemble_wait (rsmArm_wait hlen hsync hfits hshort))

/-- Settles O20: the loop's packets are the cut frame's, then those of the loop on what is left after it. -/
theorem extractCutsOneFrame : Obligations.ExtractCutsOneFrame := by
  refine ⟨fun s hf hlen hsync hfits hheld => ?_, fun s c hf hc hlen hsync hfits hheld => ?_⟩
  · exact exec_rsmInstr_selected hf (rsmArm_extract hlen hsync hfits hheld)
  · refine ⟨_, _, exec_rxPush_nil _ hf, ?_⟩
    rw [exec_rxPush_fits hf hc, reassemble_extract (rsmArm_extract hlen hsync hfits hheld)]
    rfl

/-- Settles O21: the arm ends the loop before a byte is examined. -/
theorem shortBufferIsLeftAlone : Obligations.ShortBufferIsLeftAlone := by
  refine ⟨fun s hf hshort => ?_, fun s c hf hc hshort => ?_⟩
  · exact exec_rsmInstr_no_packet hf (rsmArm_finish hshort) rfl
  · exact exec_rxPush_no_packet hf hc (reassemble_finish (rsmArm_finish hshort))

end Sys2Proof.Machine
end

section
/-! The Retransmission Scheduler's TICK (43_scheduler.md R190-R199): what a whole tick and one arm run by itself leave,
why the two agree where there is nothing to collapse, and SET_HSACK followed by its tick. -/

namespace Sys2Proof.Machine

/-! ## One arm, and the whole tick, as a step -/

/-- An operation that presents no packet and no event leaves the host alone. -/
theorem afterOp_of_nothing_presented (s : State) (b : Block) {o : Out} (hrx : o.rx = []) (hevt : o.evt = []) :
    afterOp s b o = { s with blk := b, out := o } := by
  simp [afterOp, hrx, hevt]

/-- The instruction an arm of TICK is. -/
def tickInstr : TickArm → Instr
  | .hsack => .tHsack
  | .collapse => .tCollapse
  | .hb => .tHb
  | .msg => .tMsg
  | .exhausted => .tExhausted
  | .bareack => .tBareack
  | .idle => .tIdle

/-- An arm's instruction is one guarded pass with that arm's effect (R36 b). -/
theorem exec_tickInstr (a : TickArm) (s : State) :
    exec (tickInstr a) s = execTickArm a (fun before b => tickRun before b a) s := by
  cases a <;> rfl

/-- The arm a TICK would take next completes with its effect on the block (R97). -/
theorem exec_tickInstr_selected {a : TickArm} {s : State} (hf : s.blk.fault = none)
    (ha : nextTickArm s.par s.blk = a) :
    exec (tickInstr a) s = .next (afterOp s (tickRun s.blk s.blk a).1 (tickRun s.blk s.blk a).2) := by
  have hsel : execTickArm a (fun before b => tickRun before b a) s =
      perform (gated fun _ b => tickRun b b a) s := by
    simp [execTickArm, ha]
  rw [exec_tickInstr, hsel, perform_eq, gated_of_no_fault hf]

/-- An arm runs in a block that is not faulted exactly where a TICK would take it next (R36 b). -/
theorem exec_tickInstr_completes_iff {a : TickArm} {s : State} (hf : s.blk.fault = none) :
    (∃ t, exec (tickInstr a) s = .next t) ↔ nextTickArm s.par s.blk = a := by
  constructor
  · rintro ⟨t, ht⟩
    rw [exec_tickInstr] at ht
    rcases execTickArm_cases a (fun before b => tickRun before b a) s with ⟨hsel, -⟩ | ⟨-, -, href⟩
    · simpa [faulted_eq_false hf] using hsel
    · rw [href] at ht
      cases ht
  · exact fun ha => ⟨_, exec_tickInstr_selected hf ha⟩

/-- A TICK runs, on the collapsed block, the arm chosen there (R190). -/
theorem exec_tick {s : State} (hf : s.blk.fault = none) :
    exec .tick s =
      let r := tickRun s.blk (afterCollapse s.blk) (tickArmOf (tickSel s.par (afterCollapse s.blk)))
      .next (afterOp s r.1 r.2) := by
  have hop : exec .tick s = perform opTick s := rfl
  rw [hop, perform_eq, opTick, gated_of_no_fault hf]

/-! ## The guard of the collapse (R192) -/

theorem collapsible_iff (b : Block) :
    collapsible b = true ↔ b.phs = false ∧ ∃ e rest, b.q = .hb :: e :: rest := by
  rcases hq : b.q with _ | ⟨_ | ⟨p, i, n⟩, _ | ⟨e, rest⟩⟩ <;> simp [collapsible, headIsHb, hq]

theorem nextTickArm_eq_collapse_iff (par : Params) (b : Block) :
    nextTickArm par b = .collapse ↔ collapsible b = true := by
  unfold nextTickArm
  split
  case isTrue h => simp [h]
  case isFalse h => simp [h, tickArmOf_ne_collapse]

theorem not_collapsible_of_head_not_hb {b : Block} (h : headIsHb b = false) : collapsible b = false := by
  simp [collapsible, h]

/-- Where the guard fails, the collapse before the arm changes nothing. -/
theorem afterCollapse_of_not_collapsible {b : Block} (h : collapsible b = false) : afterCollapse b = b := by
  cases hp : b.phs with
  | true => simp [afterCollapse, hp]
  | false =>
    have hc : collapse b.q = b.q := by
      unfold collapse
      split
      case h_1 e rest hq => simp [(collapsible_iff b).2 ⟨hp, e, rest, hq⟩] at h
      case h_2 => rfl
    rw [afterCollapse, hc, ite_self]

/-- Where the guard fails, the arm the selector chooses, run by itself, and a whole TICK do the same. -/
theorem exec_arm_and_tick {s : State} {a : TickArm} {b : Block} {o : Out} (hf : s.blk.fault = none)
    (hc : collapsible s.blk = false) (ha : tickArmOf (tickSel s.par s.blk) = a)
    (hrun : tickRun s.blk s.blk a = (b, o)) :
    exec (tickInstr a) s = .next (afterOp s b o) ∧ exec .tick s = .next (afterOp s b o) := by
  constructor
  · have hnext : nextTickArm s.par s.blk = a := by simp [nextTickArm, hc, ha]
    rw [exec_tickInstr_selected hf hnext, hrun]
  · rw [exec_tick hf, afterCollapse_of_not_collapsible hc, ha, hrun]

/-! ## The collapse before a tick (R192) -/

/-- The collapse only takes entries off the front. -/
theorem collapse_suffix (q : List Entry) : collapse q <:+ q := by
  fun_induction collapse q with
  | case1 e rest ih => exact ih.trans (List.suffix_cons _ _)
  | case2 q => exact List.suffix_rfl

theorem payloadsFit_collapse {q : List Entry} (h : PayloadsFit q) : PayloadsFit (collapse q) :=
  fun e he => h e ((collapse_suffix q).subset he)

/-- ENCODE never faults on an empty payload. -/
theorem transmit_no_payload (before after : Block) (r : Result) (kind ack id : Byte) :
    transmit before after r kind ack id [] = (after, { ret := [r], tx := [buildFrame kind ack id []] }) :=
  transmit_fits (Nat.zero_le 1014)

/-- An arm looks at the block before the tick only where ENCODE faults (R14), which no payload that fits causes. -/
theorem tickRun_before_irrelevant (before before' : Block) {b : Block} (h : PayloadsFit b.q) (a : TickArm) :
    tickRun before b a = tickRun before' b a := by
  cases a with
  | hsack => simp only [tickRun, tHsack, transmit_no_payload]
  | hb => simp only [tickRun, tHb, transmit_no_payload]
  | bareack => simp only [tickRun, tBareack, transmit_no_payload]
  | msg =>
    rcases hq : b.q with _ | ⟨e, rest⟩
    · simp only [tickRun, tMsg, hq]
    · have he : (entryPayload e).length ≤ 1014 := h e (by simp [hq])
      simp only [tickRun, tMsg, hq, transmit_fits he]
  | collapse | exhausted | idle => rfl

/-- A TICK looks at the queue only as the collapse leaves it. -/
theorem exec_tick_of_collapse_eq {s : State} {q : List Entry} (hf : s.blk.fault = none) (hp : s.blk.phs = false)
    (hq : collapse s.blk.q = collapse q) (hfit : PayloadsFit q) :
    exec .tick s = exec .tick { s with blk := { s.blk with q := q } } := by
  have hblk : afterCollapse { s.blk with q := q } = afterCollapse s.blk := by simp [afterCollapse, hp, hq]
  have hfit' : PayloadsFit (afterCollapse s.blk).q := by
    simpa [afterCollapse, hp, hq] using payloadsFit_collapse hfit
  rw [exec_tick hf, exec_tick (s := { s with blk := { s.blk with q := q } }) hf, hblk,
    tickRun_before_irrelevant s.blk { s.blk with q := q } hfit']
  rfl

/-- Settles O37: the arm runs exactly where its guard holds, and the collapse removes every such heartbeat before TICK
looks at the queue. -/
theorem leadingHeartbeatsCollapse : Obligations.LeadingHeartbeatsCollapse := by
  refine ⟨fun s hf => ?_, fun s e rest hf hp => ⟨fun hq => ?_, fun k hq hfit => ?_⟩⟩
  · calc (∃ t, exec .tCollapse s = .next t)
      _ ↔ nextTickArm s.par s.blk = .collapse := exec_tickInstr_completes_iff (a := .collapse) hf
      _ ↔ collapsible s.blk = true := nextTickArm_eq_collapse_iff _ _
      _ ↔ _ := collapsible_iff _
  · have hnext : nextTickArm s.par s.blk = .collapse :=
      (nextTickArm_eq_collapse_iff _ _).2 ((collapsible_iff _).2 ⟨hp, e, rest, hq⟩)
    have hrun : tickRun s.blk s.blk .collapse = ({ s.blk with q := e :: rest }, {}) := by
      simp [tickRun, tCollapse, qPop, hq]
    have harm := exec_tickInstr_selected hf hnext
    rwa [hrun, afterOp_of_nothing_presented s _ rfl rfl] at harm
  · exact exec_tick_of_collapse_eq hf hp (by rw [hq, collapse_leading]) hfit

/-! ## The arms after the collapse (R194, R198, R199) -/

/-- A control frame with no payload under kind 0 and id 0 (R91): its checksum is the ack itself. -/
theorem buildFrame_ack_alone (ack : Byte) :
    buildFrame 0x00#8 ack 0#8 [] = [0x55, 0xAA, 0x00, ack, 0x00, 0x00, 0x00, ack, 0xCC, 0x33] := by
  simp [buildFrame_eq, hi8, lo8]

/-- T_MSG's effect where the head's payload fits (R194-R196). -/
theorem tickRun_msg {b : Block} {p : List Byte} {i : Byte} {n : Nat} {rest : List Entry}
    (hq : b.q = .msg p i n :: rest) (hp : p.length ≤ 1014) (before : Block) :
    tickRun before b .msg =
      ({ b with
          q := .msg p (if i = 0#8 then b.nid else i) (n + 1) :: rest
          nid := if i = 0#8 then nextId b.nid else b.nid
          pack := 0#8 },
        { ret := [.arm .msg], tx := [buildFrame 0x00#8 b.pack (if i = 0#8 then b.nid else i) p] }) := by
  simp only [tickRun, tMsg, hq, entryPayload, transmit_fits hp]
  rfl

/-- Settles O39: with a message at the head there is nothing to collapse, and the retry bound lets T_MSG be chosen. -/
theorem headMessageGoesOut : Obligations.HeadMessageGoesOut := by
  intro s p i n rest hf hp hq hlen hm
  have hc := not_collapsible_of_head_not_hb (b := s.blk) (by simp [headIsHb, hq])
  have ha := tickArm_msg hp hq ((maySend_iff s.par n).2 hm)
  obtain ⟨harm, htick⟩ := exec_arm_and_tick hf hc ha (tickRun_msg hq hlen s.blk)
  exact ⟨_, _, encodeFrame_fits hlen, afterOp_of_nothing_presented s _ rfl rfl, harm, htick⟩

/-- Settles O41: with an empty queue and a pending ack the arm is T_BAREACK. -/
theorem bareAckGoesOutAlone : Obligations.BareAckGoesOutAlone := by
  intro s hf hp hq hack
  have hc := not_collapsible_of_head_not_hb (b := s.blk) (by simp [headIsHb, hq])
  have hrun : tickRun s.blk s.blk .bareack = ({ s.blk with pack := 0#8 },
      { ret := [.arm .bareack], tx := [buildFrame 0x00#8 s.blk.pack 0#8 []] }) := transmit_no_payload s.blk _ _ _ _ _
  obtain ⟨harm, htick⟩ := exec_arm_and_tick hf hc (tickArm_bareack hp hq hack) hrun
  rw [← buildFrame_ack_alone]
  exact ⟨_, afterOp_of_nothing_presented s _ rfl rfl, harm, htick⟩

/-- Settles O42: with an empty queue and no pending ack the arm is T_IDLE. -/
theorem idleTickDoesNothing : Obligations.IdleTickDoesNothing := by
  intro s hf hp hq hack
  have hc := not_collapsible_of_head_not_hb (b := s.blk) (by simp [headIsHb, hq])
  obtain ⟨harm, htick⟩ := exec_arm_and_tick hf hc (tickArm_idle hp hq hack) rfl
  exact ⟨_, afterOp_of_nothing_presented s _ rfl rfl, harm, htick⟩

/-! ## The pending confirm (R184, R191) -/

theorem exec_setHsack {s : State} (hf : s.blk.fault = none) :
    exec .setHsack s = .next { s with blk := { s.blk with phs := true }, out := { ret := [.done] } } := by
  have hop : exec .setHsack s = perform opSetHsack s := rfl
  rw [hop, perform_eq, opSetHsack, gated_of_no_fault hf]
  rw [afterOp_of_nothing_presented s _ rfl rfl]
  rfl

/-- With PHS = 1 a TICK clears it and sends one HandshakeAck, before any collapse (R191). -/
theorem exec_tick_hsack {s : State} (hf : s.blk.fault = none) (hp : s.blk.phs = true) :
    exec .tick s = .next (afterOp s { s.blk with phs := false }
      { ret := [.arm .hsack], tx := [buildFrame 0x02#8 0#8 0#8 []] }) := by
  have hc : collapsible s.blk = false := by simp [collapsible, hp]
  exact (exec_arm_and_tick hf hc (tickArm_hsack hp) (transmit_no_payload s.blk _ _ _ _ _)).2

/-- Settles O31: the second SET_HSACK finds PHS already set, and the one tick after both clears it. -/
theorem setHsackSetsThePendingConfirm : Obligations.SetHsackSetsThePendingConfirm := by
  intro s hf
  exact ⟨_, _, rfl, exec_setHsack hf, exec_setHsack hf, exec_tick_hsack hf rfl, rfl,
    ⟨_, rfl, by simp [buildFrame_eq]⟩, rfl⟩

end Sys2Proof.Machine
end

section
/-! The Packet Codec (40_codec.md R110-R115): the checks of VERIFY as one list of tests, the layout of an accepted frame,
and from both the round trip and what a flipped bit does. -/

namespace Sys2Proof

/-! ## XOR (R110) -/

theorem xorAll_singleton (b : Byte) : xorAll [b] = b := by simp [xorAll_cons]

theorem xorAll_perm {l m : List Byte} (h : l.Perm m) : xorAll l = xorAll m := by
  induction h with
  | nil => rfl
  | cons x _ ih => rw [xorAll_cons, xorAll_cons, ih]
  | swap x y l => rw [xorAll_cons, xorAll_cons, xorAll_cons, xorAll_cons, ← BitVec.xor_assoc, ← BitVec.xor_assoc,
      BitVec.xor_comm x y]
  | trans _ _ ih₁ ih₂ => exact ih₁.trans ih₂

/-- A byte changed by a mask changes the XOR by the same mask. -/
theorem xorAll_set (l : List Byte) (d : Byte) {i : Nat} (h : i < l.length) :
    xorAll (l.set i (byteAt l i ^^^ d)) = xorAll l ^^^ d := by
  induction l generalizing i with
  | nil => simp at h
  | cons x xs ih =>
    cases i with
    | zero => simp [byteAt, xorAll_cons, BitVec.xor_assoc, BitVec.xor_comm]
    | succ i =>
      have hxs : xorAll (xs.set i (byteAt xs i ^^^ d)) = xorAll xs ^^^ d := ih (by simpa using h)
      have hb : byteAt (x :: xs) (i + 1) = byteAt xs i := by simp [byteAt]
      rw [List.set_cons_succ, xorAll_cons, xorAll_cons, hb, hxs, BitVec.xor_assoc]

/-! ## VERIFY's checks (R111) -/

/-- VERIFY's first check: the length, against the slice's own length field. -/
abbrev LengthOk (l : List Byte) : Prop :=
  10 ≤ l.length ∧ declaredLen l ≤ 1014 ∧ l.length = 10 + declaredLen l

/-- VERIFY's last check, in the form that the covered bytes and the checksum byte cancel. -/
abbrev SumOk (l : List Byte) : Prop := xorAll ((l.drop 2).take (6 + declaredLen l)) = 0#8

theorem checksum_iff {l : List Byte} (h : LengthOk l) :
    xorAll (slice l 2 (7 + declaredLen l)) = byteAt l (7 + declaredLen l) ↔ SumOk l := by
  obtain ⟨-, -, hlen⟩ := h
  have hsplit : (l.drop 2).take (6 + declaredLen l) =
      slice l 2 (7 + declaredLen l) ++ [byteAt l (7 + declaredLen l)] := by
    have hlt : 7 + declaredLen l < l.length := by omega
    have htake : 6 + declaredLen l = (7 + declaredLen l - 2) + 1 := by omega
    have hidx : 2 + (7 + declaredLen l - 2) = 7 + declaredLen l := by omega
    rw [htake, List.take_add_one, List.getElem?_drop, hidx]
    simp [slice, byteAt, hlt]
  rw [SumOk, hsplit, xorAll_append, xorAll_singleton, BitVec.xor_eq_zero_iff]

/-- VERIFY as its four checks in order. -/
theorem verifyFrame_eq (l : List Byte) : verifyFrame l =
    if ¬ LengthOk l then .bad .badLength
    else if syncAtFront l = false then .bad .badSync
    else if trailerAt l (declaredLen l) = false then .bad .badTrailer
    else if ¬ SumOk l then .bad .badChecksum
    else .ok := by
  by_cases hl : LengthOk l
  · have hpass : ¬ l.length < Config.overhead ∧
        ¬ (declaredLen l > Config.maxPayload ∨ l.length ≠ frameLen l) := by
      simp [frameLen]; omega
    rw [verifyFrame, if_neg hpass.1, if_neg hpass.2, if_neg (not_not.2 hl)]
    simp only [ne_eq, checksum_iff hl]
  · rw [if_pos hl, verifyFrame]
    split
    · rfl
    · rename_i h10
      rw [if_pos]
      simp [frameLen] at h10 ⊢
      omega

theorem verifyFrame_badLength {l : List Byte} (h : ¬ LengthOk l) : verifyFrame l = .bad .badLength := by
  rw [verifyFrame_eq, if_pos h]

theorem verifyFrame_badSync {l : List Byte} (hl : LengthOk l) (hs : syncAtFront l = false) :
    verifyFrame l = .bad .badSync := by
  rw [verifyFrame_eq, if_neg (not_not.2 hl), if_pos hs]

theorem verifyFrame_badTrailer {l : List Byte} (hl : LengthOk l) (hs : syncAtFront l = true)
    (ht : trailerAt l (declaredLen l) = false) : verifyFrame l = .bad .badTrailer := by
  rw [verifyFrame_eq, if_neg (not_not.2 hl), if_neg (by simp [hs]), if_pos ht]

theorem verifyFrame_badChecksum {l : List Byte} (hl : LengthOk l) (hs : syncAtFront l = true)
    (ht : trailerAt l (declaredLen l) = true) (hx : ¬ SumOk l) : verifyFrame l = .bad .badChecksum := by
  rw [verifyFrame_eq, if_neg (not_not.2 hl), if_neg (by simp [hs]), if_neg (by simp [ht]), if_pos hx]

theorem verifyFrame_ok {l : List Byte} (hl : LengthOk l) (hs : syncAtFront l = true)
    (ht : trailerAt l (declaredLen l) = true) (hx : SumOk l) : verifyFrame l = .ok := by
  rw [verifyFrame_eq, if_neg (not_not.2 hl), if_neg (by simp [hs]), if_neg (by simp [ht]), if_neg (not_not.2 hx)]

theorem syncAtFront_eq_true_iff (l : List Byte) :
    syncAtFront l = true ↔ byteAt l 0 = 0x55#8 ∧ byteAt l 1 = 0xAA#8 := by
  simp [syncAtFront, Machine.sync0_eq, Machine.sync1_eq]

theorem trailerAt_eq_true_iff (l : List Byte) (n : Nat) :
    trailerAt l n = true ↔ byteAt l (8 + n) = 0xCC#8 ∧ byteAt l (9 + n) = 0x33#8 := by
  simp [trailerAt, Machine.trailer0_eq, Machine.trailer1_eq]

/-! ## The layout of a frame (R81) -/

/-- A slice whose length matches its own length field is seven header bytes, a payload, a checksum and a trailer. -/
theorem exists_frame_layout {s : List Byte} (h : LengthOk s) :
    ∃ s0 s1 kind ack id hi lo p sum t0 t1,
      s = s0 :: s1 :: kind :: ack :: id :: hi :: lo :: (p ++ [sum, t0, t1]) ∧ p.length = be16 hi lo := by
  obtain ⟨h10, -, hlen⟩ := h
  match s, h10, hlen with
  | s0 :: s1 :: kind :: ack :: id :: hi :: lo :: r, _, hlen =>
    have hr : r.length = be16 hi lo + 3 := by
      simp [declaredLen, byteAt] at hlen
      omega
    have htail : (r.drop (be16 hi lo)).length = 3 := by simp [hr]
    obtain ⟨sum, t0, t1, hsum⟩ := List.length_eq_three.1 htail
    refine ⟨s0, s1, kind, ack, id, hi, lo, r.take (be16 hi lo), sum, t0, t1, ?_, by simp [hr]⟩
    rw [← hsum, List.take_append_drop]

/-- What the checks and the fields read in a slice laid out as a frame. -/
theorem declaredLen_layout (s0 s1 kind ack id hi lo : Byte) (t : List Byte) :
    declaredLen (s0 :: s1 :: kind :: ack :: id :: hi :: lo :: t) = be16 hi lo := rfl

theorem byteAt_trailing (s0 s1 kind ack id hi lo : Byte) (p t : List Byte) (k : Nat) :
    byteAt (s0 :: s1 :: kind :: ack :: id :: hi :: lo :: (p ++ t)) (7 + k + p.length) = byteAt t k := by
  have hidx : 7 + k + p.length = (p.length + k) + 7 := by omega
  simp [byteAt, hidx, List.getElem?_append_right]

theorem packetFields_layout {s0 s1 kind ack id hi lo : Byte} {p : List Byte} (t : List Byte)
    (hp : p.length = be16 hi lo) :
    packetFields (s0 :: s1 :: kind :: ack :: id :: hi :: lo :: (p ++ t)) = { kind, ack, id, payload := p } := by
  simp [packetFields, byteAt, slice, declaredLen_layout, ← hp]

theorem sumOk_layout {s0 s1 kind ack id hi lo sum t0 t1 : Byte} {p : List Byte} (hp : p.length = be16 hi lo) :
    SumOk (s0 :: s1 :: kind :: ack :: id :: hi :: lo :: (p ++ [sum, t0, t1])) ↔
      kind ^^^ (ack ^^^ (id ^^^ (hi ^^^ (lo ^^^ xorAll p)))) = sum := by
  have hcover : ((s0 :: s1 :: kind :: ack :: id :: hi :: lo :: (p ++ [sum, t0, t1])).drop 2).take (6 + p.length) =
      kind :: ack :: id :: hi :: lo :: (p ++ [sum]) := by
    have htake : 6 + p.length = (p.length + 1) + 5 := by omega
    simp [htake, List.take_append]
  have hxor : xorAll (kind :: ack :: id :: hi :: lo :: (p ++ [sum])) =
      (kind ^^^ (ack ^^^ (id ^^^ (hi ^^^ (lo ^^^ xorAll p))))) ^^^ sum := by
    simp [xorAll_cons, xorAll_append, BitVec.xor_assoc]
  rw [SumOk, declaredLen_layout, ← hp, hcover, hxor, BitVec.xor_eq_zero_iff]

/-- The trailer of a slice laid out as a frame. -/
theorem trailerAt_layout {s0 s1 kind ack id hi lo sum t0 t1 : Byte} {p : List Byte} :
    trailerAt (s0 :: s1 :: kind :: ack :: id :: hi :: lo :: (p ++ [sum, t0, t1])) p.length = true ↔
      t0 = 0xCC#8 ∧ t1 = 0x33#8 := by
  rw [trailerAt_eq_true_iff, byteAt_trailing _ _ _ _ _ _ _ p _ 1, byteAt_trailing _ _ _ _ _ _ _ p _ 2]
  rfl

/-! ## The round trip (R114) -/

theorem verifyFrame_buildFrame (kind ack id : Byte) {p : List Byte} (h : p.length ≤ 1014) :
    verifyFrame (buildFrame kind ack id p) = .ok := by
  have hbe : p.length = be16 (hi8 p.length) (lo8 p.length) := (be16_hi8_lo8 (by omega)).symm
  have hd : declaredLen (buildFrame kind ack id p) = p.length := declaredLen_buildFrame kind ack id (by omega)
  refine verifyFrame_ok ?_ (syncAtFront_buildFrame kind ack id p) ?_ ?_
  · rw [LengthOk, hd, buildFrame_length]
    omega
  · rw [hd, buildFrame_eq]
    exact trailerAt_layout.2 ⟨rfl, rfl⟩
  · rw [buildFrame_eq]
    exact (sumOk_layout hbe).2 rfl

theorem packetFields_buildFrame (kind ack id : Byte) {p : List Byte} (h : p.length ≤ 1014) :
    packetFields (buildFrame kind ack id p) = { kind, ack, id, payload := p } := by
  rw [buildFrame_eq]
  exact packetFields_layout _ (be16_hi8_lo8 (by omega)).symm

/-- A slice VERIFY accepts is the frame ENCODE builds from its fields. -/
theorem buildFrame_packetFields {s : List Byte} (h : verifyFrame s = .ok) :
    buildFrame (packetFields s).kind (packetFields s).ack (packetFields s).id (packetFields s).payload = s := by
  obtain ⟨hl, hs, ht, hx⟩ := (verifyFrame_ok_iff s).1 h
  rw [checksum_iff hl] at hx
  obtain ⟨s0, s1, kind, ack, id, hi, lo, p, sum, t0, t1, rfl, hp⟩ := exists_frame_layout hl
  obtain ⟨rfl, rfl⟩ : s0 = 0x55#8 ∧ s1 = 0xAA#8 := (syncAtFront_eq_true_iff _).1 hs
  rw [declaredLen_layout, ← hp] at ht
  obtain ⟨rfl, rfl⟩ := trailerAt_layout.1 ht
  have hsum := (sumOk_layout hp).1 hx
  rw [packetFields_layout _ hp, buildFrame_eq, hp, hi8_be16, lo8_be16, hsum]

/-- Settles O6: a built frame passes VERIFY and yields its fields; an accepted frame is its own layout. -/
theorem codecRoundTrip : Obligations.CodecRoundTrip := by
  refine ⟨fun kind ack id p hp => ?_, fun f kind ack id p hf => ?_⟩
  · refine ⟨_, Machine.encodeFrame_fits hp, (decodePacket_eq_some _ _).2 ?_⟩
    exact ⟨verifyFrame_buildFrame kind ack id hp, packetFields_buildFrame kind ack id hp⟩
  · have hlen : p.length ≤ 1014 := decodePacket_payload_fits hf
    obtain ⟨hok, hfields⟩ := (decodePacket_eq_some _ _).1 hf
    have hbuild := buildFrame_packetFields hok
    rw [hfields] at hbuild
    rw [Machine.encodeFrame_fits hlen, hbuild]

end Sys2Proof
end

section
/-! The Packet Codec's operations as steps (40_codec.md R110-R113, R221), VERIFY's verdicts, and a flipped bit (R115). -/

namespace Sys2Proof.Machine

/-! ## An operation as a step -/

/-- While FAULT = 0 an operation that presents nothing writes the block alone. -/
theorem perform_gated {op : BlockOp} {s : State} {b : Block} {o : Out} (hf : s.blk.fault = none)
    (hop : op s.par s.blk = (b, o)) (hrx : o.rx = []) (hevt : o.evt = []) :
    perform (gated op) s = .next { s with blk := b, out := o } := by
  rw [perform_eq, gated_of_no_fault hf, hop, afterOp_of_nothing_presented s _ hrx hevt]

/-- While FAULT = 0 an operation that only returns a result changes nothing. -/
theorem perform_gated_answer {op : BlockOp} {s : State} {r : Result} (hf : s.blk.fault = none)
    (hop : op s.par s.blk = (s.blk, answer r)) : perform (gated op) s = .next { s with out := { ret := [r] } } :=
  perform_gated hf hop rfl rfl

/-! ## The codec's operations (R110-R113, R221) -/

/-- Settles O1: XORSUM only returns, and XOR is associative and commutative. -/
theorem xorsumReturnsTheXor : Obligations.XorsumReturnsTheXor := by
  refine ⟨fun s l hf => perform_gated_answer hf rfl, rfl, fun l b => ?_, xorAll_singleton, fun l => ?_,
    fun l m h => xorAll_perm h⟩
  · rw [xorAll_append, xorAll_singleton]
  · rw [xorAll_append, xorAll_singleton, BitVec.xor_self]

/-- VERIFY's five verdicts, each with the checks that single it out (R111). -/
theorem verifyFrame_verdicts (l : List Byte) :
    (verifyFrame l = .bad .badLength ↔ ¬ LengthOk l) ∧
    (verifyFrame l = .bad .badSync ↔ LengthOk l ∧ ¬ syncAtFront l = true) ∧
    (verifyFrame l = .bad .badTrailer ↔
      LengthOk l ∧ syncAtFront l = true ∧ ¬ trailerAt l (declaredLen l) = true) ∧
    (verifyFrame l = .bad .badChecksum ↔
      LengthOk l ∧ syncAtFront l = true ∧ trailerAt l (declaredLen l) = true ∧ ¬ SumOk l) ∧
    (verifyFrame l = .ok ↔
      LengthOk l ∧ syncAtFront l = true ∧ trailerAt l (declaredLen l) = true ∧ SumOk l) := by
  by_cases hl : LengthOk l
  · cases hs : syncAtFront l with
    | false => simp [verifyFrame_badSync hl hs, eq_true hl]
    | true =>
      cases ht : trailerAt l (declaredLen l) with
      | false => simp [verifyFrame_badTrailer hl hs ht, eq_true hl]
      | true =>
        by_cases hx : SumOk l
        · simp [verifyFrame_ok hl hs ht hx, eq_true hl, eq_true hx]
        · simp [verifyFrame_badChecksum hl hs ht hx, eq_true hl, eq_true hx]
  · simp [verifyFrame_badLength hl, hl]

/-- Settles O2: the verdicts of VERIFY's four checks, taken in order. -/
theorem verifyReportsTheFirstDefect : Obligations.VerifyReportsTheFirstDefect := by
  intro s l hf
  refine ⟨verifyFrame l, perform_gated_answer hf rfl, ?_⟩
  have h := verifyFrame_verdicts l
  rw [syncAtFront_eq_true_iff, trailerAt_eq_true_iff] at h
  exact h

theorem execEncode_fits {s : State} {p : List Byte} (kind ack id : Byte) (hf : s.blk.fault = none)
    (hp : p.length ≤ 1014) :
    exec (.encode kind ack id p) s = .next { s with out := { ret := [.frame (buildFrame kind ack id p)] } } :=
  perform_gated_answer hf (by simp [encodeFrame_fits hp])

/-- Settles O3: each byte is read off the frame written out. -/
theorem encodeBuildsTheFrame : Obligations.EncodeBuildsTheFrame := by
  intro s kind ack id p hf hp
  refine ⟨_, execEncode_fits kind ack id hf hp, buildFrame_length kind ack id p, ?_, ?_, ?_, ?_, ?_, ?_⟩
  · rw [buildFrame_length]
    omega
  · simp [buildFrame_eq]
  · exact declaredLen_buildFrame kind ack id (by omega)
  · simp [buildFrame_eq]
  · obtain ⟨hl, -, -, hsum⟩ := (verifyFrame_ok_iff _).1 (verifyFrame_buildFrame kind ack id hp)
    rw [declaredLen_buildFrame kind ack id (by omega)] at hsum
    have hcount : 7 + p.length - 2 = 5 + p.length := by omega
    rw [slice, hcount] at hsum
    exact hsum.symm
  · have hdrop : 8 + p.length = (p.length + 1) + 7 := by omega
    simp [buildFrame_eq, hdrop, List.drop_append]

/-- Settles O4: the payload does not fit, so ENCODE takes the fault. -/
theorem oversizeEncodeFaults : Obligations.OversizeEncodeFaults := by
  intro s kind ack id p hf hp
  have hop : exec (.encode kind ack id p) s = perform (opEncode kind ack id p) s := rfl
  rw [hop, perform_eq, opEncode, gated_of_no_fault hf, encodeFrame_oversize hp]
  simp [raiseFault, afterOp]

/-- Settles O5: DECODE is VERIFY, then the fields. -/
theorem decodeReturnsTheFields : Obligations.DecodeReturnsTheFields := by
  intro s l hf
  have hdecode : decodePacket l = if verifyFrame l = .ok then some (packetFields l) else none := by
    unfold decodePacket
    cases verifyFrame l <;> simp
  have hexec : exec (.decode l) s = .next { s with out := { ret := [.decoded (decodePacket l)] } } :=
    perform_gated_answer hf rfl
  rw [hexec, hdecode]
  simp [packetFields, byteAt, slice, declaredLen, be16]

end Sys2Proof.Machine

namespace Sys2Proof

/-! ## A flipped bit (R115) -/

theorem byteAt_set_self {l : List Byte} {i : Nat} (v : Byte) (h : i < l.length) : byteAt (l.set i v) i = v := by
  simp [byteAt, h]

theorem byteAt_set_other {l : List Byte} {i j : Nat} (v : Byte) (h : i ≠ j) :
    byteAt (l.set i v) j = byteAt l j := by
  simp [byteAt, List.getElem?_set_ne h]

theorem be16_inj {h l h' l' : Byte} (heq : be16 h l = be16 h' l') : h = h' ∧ l = l' :=
  ⟨by rw [← hi8_be16 h l, heq, hi8_be16], by rw [← lo8_be16 h l, heq, lo8_be16]⟩

/-- A slice with byte `i` changed by the mask `d`. -/
def maskByte (f : List Byte) (i : Nat) (d : Byte) : List Byte := f.set i (byteAt f i ^^^ d)

@[simp] theorem maskByte_length (f : List Byte) (i : Nat) (d : Byte) : (maskByte f i d).length = f.length := by
  simp [maskByte]

theorem byteAt_maskByte_self {f : List Byte} {i : Nat} {d : Byte} (hi : i < f.length) (hd : d ≠ 0#8) :
    byteAt (maskByte f i d) i ≠ byteAt f i := by
  rw [maskByte, byteAt_set_self _ hi]
  simpa using hd

theorem byteAt_maskByte_other {f : List Byte} {i j : Nat} {d : Byte} (h : i ≠ j) :
    byteAt (maskByte f i d) j = byteAt f j := byteAt_set_other _ h

theorem declaredLen_maskByte {f : List Byte} {i : Nat} {d : Byte} (h5 : i ≠ 5) (h6 : i ≠ 6) :
    declaredLen (maskByte f i d) = declaredLen f := by
  rw [declaredLen, byteAt_maskByte_other h5, byteAt_maskByte_other h6, declaredLen]

theorem declaredLen_maskByte_ne {f : List Byte} {i : Nat} {d : Byte} (hi : i < f.length) (hd : d ≠ 0#8)
    (h : i = 5 ∨ i = 6) : declaredLen (maskByte f i d) ≠ declaredLen f := by
  intro heq
  obtain ⟨h5, h6⟩ := be16_inj heq
  rcases h with rfl | rfl
  · exact byteAt_maskByte_self hi hd h5
  · exact byteAt_maskByte_self hi hd h6

theorem syncAtFront_maskByte {f : List Byte} {i : Nat} {d : Byte} (h : 2 ≤ i) :
    syncAtFront (maskByte f i d) = syncAtFront f := by
  rw [syncAtFront, byteAt_maskByte_other (by omega), byteAt_maskByte_other (by omega), syncAtFront]

theorem trailerAt_maskByte {f : List Byte} {i n : Nat} {d : Byte} (h : i < 8 + n) :
    trailerAt (maskByte f i d) n = trailerAt f n := by
  rw [trailerAt, byteAt_maskByte_other (by omega), byteAt_maskByte_other (by omega), trailerAt]

/-- Changing a covered byte spoils the checksum. -/
theorem not_sumOk_maskByte {f : List Byte} {i : Nat} {d : Byte} (hx : SumOk f) (hd : d ≠ 0#8) (h2 : 2 ≤ i)
    (hlen : declaredLen (maskByte f i d) = declaredLen f) (hi : i < 8 + declaredLen f) (hif : i < f.length) :
    ¬ SumOk (maskByte f i d) := by
  have hcover : ((maskByte f i d).drop 2).take (6 + declaredLen f) =
      ((f.drop 2).take (6 + declaredLen f)).set (i - 2)
        (byteAt ((f.drop 2).take (6 + declaredLen f)) (i - 2) ^^^ d) := by
    have hbyte : byteAt ((f.drop 2).take (6 + declaredLen f)) (i - 2) = byteAt f i := by
      have hidx : 2 + (i - 2) = i := by omega
      have hlt : i - 2 < 6 + declaredLen f := by omega
      simp [byteAt, List.getElem?_take_of_lt hlt, hidx]
    rw [hbyte, maskByte, List.drop_set, if_neg (by omega), List.take_set]
  rw [SumOk, hlen, hcover, xorAll_set _ _ (by simp; omega), show xorAll _ = 0#8 from hx]
  simpa using hd

theorem decodePacket_of_bad {f : List Byte} {c : Cause} (h : verifyFrame f = .bad c) : decodePacket f = none := by
  rw [decodePacket, h]

/-- VERIFY names the field of a changed byte: the first check that covers it fails (R115, decision D5). -/
theorem verifyFrame_maskByte {f : List Byte} {i : Nat} {d : Byte} (hok : verifyFrame f = .ok) (hi : i < f.length)
    (hd : d ≠ 0#8) :
    verifyFrame (maskByte f i d) = .bad (
      if i < 2 then .badSync
      else if i = 5 ∨ i = 6 then .badLength
      else if i < f.length - 2 then .badChecksum
      else .badTrailer) := by
  obtain ⟨hl, hs, ht, hx⟩ := (verifyFrame_ok_iff f).1 hok
  rw [checksum_iff hl] at hx
  obtain ⟨h10, h1014, hlen⟩ := id hl
  by_cases h56 : i = 5 ∨ i = 6
  · have hne := declaredLen_maskByte_ne hi hd h56
    rw [if_neg (by omega), if_pos h56]
    refine verifyFrame_badLength fun hg => ?_
    rw [LengthOk, maskByte_length] at hg
    omega
  · have hdl : declaredLen (maskByte f i d) = declaredLen f := declaredLen_maskByte (by omega) (by omega)
    have hlg : LengthOk (maskByte f i d) := by rwa [LengthOk, maskByte_length, hdl]
    rw [if_neg h56]
    by_cases h2 : i < 2
    · rw [if_pos h2]
      refine verifyFrame_badSync hlg (Bool.eq_false_iff.2 fun hg => ?_)
      rw [syncAtFront_eq_true_iff] at hs hg
      have hcase : i = 0 ∨ i = 1 := by omega
      rcases hcase with rfl | rfl
      · exact byteAt_maskByte_self hi hd (hg.1.trans hs.1.symm)
      · exact byteAt_maskByte_self hi hd (hg.2.trans hs.2.symm)
    · have hsg : syncAtFront (maskByte f i d) = true := (syncAtFront_maskByte (by omega)).trans hs
      rw [if_neg h2]
      by_cases hsum : i < f.length - 2
      · rw [if_pos hsum]
        refine verifyFrame_badChecksum hlg hsg ?_ (not_sumOk_maskByte hx hd (by omega) hdl (by omega) hi)
        rw [hdl, trailerAt_maskByte (by omega), ht]
      · rw [if_neg hsum]
        refine verifyFrame_badTrailer hlg hsg (Bool.eq_false_iff.2 fun hg => ?_)
        rw [hdl, trailerAt_eq_true_iff] at hg
        rw [trailerAt_eq_true_iff] at ht
        have hcase : i = 8 + declaredLen f ∨ i = 9 + declaredLen f := by omega
        rcases hcase with rfl | rfl
        · exact byteAt_maskByte_self hi hd (hg.1.trans ht.1.symm)
        · exact byteAt_maskByte_self hi hd (hg.2.trans ht.2.symm)

/-- Settles O7: a flipped bit is a byte changed by a nonzero mask. -/
theorem singleBitFlipIsCaught : Obligations.SingleBitFlipIsCaught := by
  intro f i k hdec hi hk
  have hmask : ∀ k < 8, BitVec.ofNat 8 (2 ^ k) ≠ 0#8 := by decide
  obtain ⟨p, hp⟩ := Option.ne_none_iff_exists'.1 hdec
  have hok := ((decodePacket_eq_some _ _).1 hp).1
  have hbad := verifyFrame_maskByte hok hi (hmask k hk)
  exact ⟨decodePacket_of_bad hbad, hbad⟩

end Sys2Proof
end

section
/-! The two encodings (30_encoding.md R81-R97): the form of a received frame as the first matching row, and the round trips
between instructions and their bytes. -/

namespace Sys2Proof.Machine

/-! ## The header word (R82, R90) -/

theorem append_inj {v w : Nat} {x x' : BitVec v} {y y' : BitVec w} : x ++ y = x' ++ y' ↔ x = x' ∧ y = y' := by
  refine ⟨fun h => ⟨?_, ?_⟩, fun ⟨hx, hy⟩ => by rw [hx, hy]⟩
  · have hhigh := congrArg (BitVec.extractLsb' w v) h
    rwa [BitVec.extractLsb'_append_eq_left, BitVec.extractLsb'_append_eq_left] at hhigh
  · have hlow := congrArg (BitVec.extractLsb' 0 w) h
    rwa [BitVec.extractLsb'_append_eq_right, BitVec.extractLsb'_append_eq_right] at hlow

/-- A row whose mask covers the sync marker and parts of kind and id selects a frame by these two bytes. -/
theorem row_matches_iff {f : List Byte} (hs : syncAtFront f = true) (kindMask idMask kind id : Byte) :
    headerWord f &&& (0xFF#8 ++ 0xFF#8 ++ kindMask ++ 0#8 ++ idMask ++ 0#8 ++ 0#8) =
        0x55#8 ++ 0xAA#8 ++ kind ++ 0#8 ++ id ++ 0#8 ++ 0#8 ↔
      byteAt f 2 &&& kindMask = kind ∧ byteAt f 4 &&& idMask = id := by
  obtain ⟨h0, h1⟩ := (syncAtFront_eq_true_iff f).1 hs
  rw [headerWord]
  iterate 6 rw [BitVec.and_append, append_inj]
  simp [h0, h1]

theorem and_ones (b : Byte) : b &&& 0xFF#8 = b := BitVec.and_allOnes

/-- R90's row CTRL0. -/
theorem row_ctrl0 {f : List Byte} (hs : syncAtFront f = true) :
    headerWord f &&& 0xFFFFFF00FF0000#56 = 0x55AA0000000000#56 ↔ byteAt f 2 = 0#8 ∧ byteAt f 4 = 0#8 := by
  have hrow := row_matches_iff hs 0xFF#8 0xFF#8 0#8 0#8
  simp only [and_ones] at hrow
  exact hrow

/-- R90's rows DATA, HANDSHAKE and HANDSHAKE_ACK, each by its kind. -/
theorem row_kind {f : List Byte} (hs : syncAtFront f = true) {pattern : HeaderWord} (kind : Byte)
    (hp : pattern = 0x55#8 ++ 0xAA#8 ++ kind ++ 0#8 ++ 0#8 ++ 0#8 ++ 0#8) :
    headerWord f &&& 0xFFFFFF00000000#56 = pattern ↔ byteAt f 2 = kind := by
  have hrow := row_matches_iff hs 0xFF#8 0#8 kind 0#8
  simp only [and_ones, BitVec.and_zero, and_true] at hrow
  rw [hp]
  exact hrow

/-- R90's row UNKNOWN matches every frame. -/
theorem row_unknown {f : List Byte} (hs : syncAtFront f = true) :
    headerWord f &&& 0xFFFF0000000000#56 = 0x55AA0000000000#56 := by
  have hrow := row_matches_iff hs 0#8 0#8 0#8 0#8
  simp only [BitVec.and_zero, and_self, iff_true] at hrow
  exact hrow

/-- The first row that selects a frame is its form's (R90): the rows' tests are the tests on kind and id, in one order. -/
theorem firstRow_eq_formName {f : List Byte} (hs : syncAtFront f = true) :
    (formRows.find? fun r => headerWord f &&& r.mask == r.pattern).map (fun r => r.form) =
      formName (formOf (packetFields f)) := by
  have h0 := row_ctrl0 hs
  have h1 := row_kind hs (pattern := 0x55AA0000000000#56) 0#8 rfl
  have h2 := row_kind hs (pattern := 0x55AA0100000000#56) 1#8 rfl
  have h3 := row_kind hs (pattern := 0x55AA0200000000#56) 2#8 rfl
  have h4 := row_unknown hs
  simp only [formRows, List.find?_cons, beq_eq_decide, h0, h1, h2, h3, h4, formOf, packetFields, kindData_eq,
    kindHandshake_eq, kindHandshakeAck_eq]
  by_cases hctrl : byteAt f 2 = 0#8 ∧ byteAt f 4 = 0#8
  · simp [hctrl, formName]
  · by_cases hdata : byteAt f 2 = 0#8
    · have hid : byteAt f 4 ≠ 0#8 := fun hid => hctrl ⟨hdata, hid⟩
      simp [hdata, hid, formName]
    · by_cases hhs : byteAt f 2 = 1#8
      · simp [hhs, formName]
      · by_cases hack : byteAt f 2 = 2#8
        · simp [hack, formName]
        · simp [hdata, hhs, hack, formName]

theorem decodeFrame_of_ok {f : List Byte} (h : verifyFrame f = .ok) :
    decodeFrame f = .ok (formOf (packetFields f)) := by
  rw [decodeFrame, h]

/-- Settles O8: both sides are decided by the same tests on the kind and id bytes. -/
theorem formIsTheFirstMatchingRow : Obligations.FormIsTheFirstMatchingRow := by
  intro f hdec
  obtain ⟨p, hp⟩ := Option.ne_none_iff_exists'.1 hdec
  obtain ⟨hok, -⟩ := (decodePacket_eq_some f p).1 hp
  obtain ⟨-, hsync, -⟩ := (verifyFrame_ok_iff f).1 hok
  exact ⟨_, decodeFrame_of_ok hok, (firstRow_eq_formName hsync).symm⟩

/-! ## Received frames (R81, R90) -/

theorem decodeFrame_buildFrame (kind ack id : Byte) {p : List Byte} (h : p.length ≤ 1014) :
    decodeFrame (buildFrame kind ack id p) = .ok (formOf { kind, ack, id, payload := p }) := by
  rw [decodeFrame_of_ok (verifyFrame_buildFrame kind ack id h), packetFields_buildFrame kind ack id h]

/-- The five forms of a packet, each with the kind and id that select it (R90). -/
theorem formOf_cases (p : Packet) :
    (p.kind = 0#8 ∧ p.id = 0#8 ∧ formOf p = .ctrl0 p.ack p.payload) ∨
      (p.kind = 0#8 ∧ p.id ≠ 0#8 ∧ formOf p = .data p.ack p.id p.payload) ∨
      (p.kind = 1#8 ∧ formOf p = .handshake p.ack p.id p.payload) ∨
      (p.kind = 2#8 ∧ formOf p = .handshakeAck p.ack p.id p.payload) ∨
      (3 ≤ p.kind.toNat ∧ formOf p = .unknown p.kind p.ack p.id p.payload) := by
  by_cases h0 : p.kind = 0#8
  · by_cases hid : p.id = 0#8 <;> simp [formOf, h0, hid]
  · by_cases h1 : p.kind = 1#8
    · simp [formOf, h1]
    · by_cases h2 : p.kind = 2#8
      · simp [formOf, h2]
      · have h3 : 3 ≤ p.kind.toNat := by bv_omega
        simp [formOf, h0, h1, h2, h3]

theorem isForm_formOf (p : Packet) : isForm (formOf p) = true := by
  rcases formOf_cases p with ⟨-, -, h⟩ | ⟨-, -, h⟩ | ⟨-, h⟩ | ⟨-, h⟩ | ⟨-, h⟩ <;> rw [h] <;> rfl

theorem wellFormed_formOf {p : Packet} (hp : p.payload.length ≤ 1014) : WellFormed (formOf p) = true := by
  rcases formOf_cases p with ⟨-, -, h⟩ | ⟨-, hid, h⟩ | ⟨-, h⟩ | ⟨-, h⟩ | ⟨hk, h⟩ <;> simp [WellFormed, *]

theorem encode_formOf (p : Packet) : encode (formOf p) = encodeFrame p.kind p.ack p.id p.payload := by
  rcases formOf_cases p with ⟨hk, hid, h⟩ | ⟨hk, -, h⟩ | ⟨hk, h⟩ | ⟨hk, h⟩ | ⟨-, h⟩ <;> simp [encode, *]

/-- A well-formed received form is the form of a packet that fits a frame (R90). -/
theorem form_is_formOf {i : Instr} (hi : isForm i = true) (hwf : WellFormed i = true) :
    ∃ p : Packet, p.payload.length ≤ 1014 ∧ formOf p = i := by
  cases i with
  | ctrl0 ack payload => exact ⟨⟨0#8, ack, 0#8, payload⟩, by simpa [WellFormed] using hwf, by simp [formOf]⟩
  | data ack id payload =>
    simp only [WellFormed, decide_eq_true_eq] at hwf
    exact ⟨⟨0#8, ack, id, payload⟩, hwf.2, by simp [formOf, hwf.1]⟩
  | handshake ack id payload => exact ⟨⟨1#8, ack, id, payload⟩, by simpa [WellFormed] using hwf, by simp [formOf]⟩
  | handshakeAck ack id payload => exact ⟨⟨2#8, ack, id, payload⟩, by simpa [WellFormed] using hwf, by simp [formOf]⟩
  | unknown kind ack id payload =>
    simp only [WellFormed, decide_eq_true_eq] at hwf
    have h0 : kind ≠ 0#8 := by bv_omega
    have h1 : kind ≠ 1#8 := by bv_omega
    have h2 : kind ≠ 2#8 := by bv_omega
    exact ⟨⟨kind, ack, id, payload⟩, hwf.2, by simp [formOf, h0, h1, h2]⟩
  | _ => cases hi

/-- A well-formed emitted frame carries the packet whose form the peer receives (R90, R91). -/
theorem peerForm_is_formOf {i : Instr} (hi : isEmission i = true) (hwf : WellFormed i = true) :
    ∃ p : Packet, p.payload.length ≤ 1014 ∧ encode i = encodeFrame p.kind p.ack p.id p.payload ∧
      formOf p = peerForm i := by
  cases i with
  | txData ack id payload =>
    simp only [WellFormed, decide_eq_true_eq] at hwf
    exact ⟨⟨0#8, ack, id, payload⟩, hwf.2, rfl, by simp [formOf, hwf.1, peerForm]⟩
  | txHeartbeat ack => exact ⟨⟨0#8, ack, 0#8, []⟩, by simp, rfl, rfl⟩
  | txBareAck ack => exact ⟨⟨0#8, ack, 0#8, []⟩, by simp, rfl, rfl⟩
  | txHandshakeAck => exact ⟨⟨2#8, 0#8, 0#8, []⟩, by simp, rfl, rfl⟩
  | txHandshake => exact ⟨⟨1#8, 0#8, 0#8, []⟩, by simp, rfl, rfl⟩
  | _ => cases hi

/-- A packet that fits is received as its form (R81, R90). -/
theorem decodeFrame_encodeFrame {p : Packet} (hp : p.payload.length ≤ 1014) :
    ∃ f, encodeFrame p.kind p.ack p.id p.payload = some f ∧ decodeFrame f = .ok (formOf p) :=
  ⟨_, encodeFrame_fits hp, decodeFrame_buildFrame p.kind p.ack p.id hp⟩

/-! ## Commands (R96) -/

theorem seqOperand_seqBytes {s : List Byte} (h : s.length ≤ 65535) (rest : List Byte) :
    seqOperand (seqBytes s ++ rest) = some (s, rest) := by
  simp [seqBytes, seqOperand, be16_hi8_lo8 (show s.length < 65536 by omega)]

theorem seqOperand_whole {s : List Byte} (h : s.length ≤ 65535) : seqOperand (seqBytes s) = some (s, []) := by
  simpa using seqOperand_seqBytes h []

/-- What a byte-sequence operand reads is its count and its bytes, and the rest. -/
theorem seqOperand_eq_some {b s rest : List Byte} (h : seqOperand b = some (s, rest)) :
    s.length ≤ 65535 ∧ b = seqBytes s ++ rest := by
  match b with
  | hi :: lo :: r =>
    have hlt := be16_lt hi lo
    rw [seqOperand] at h
    split at h
    · cases h
    · cases h
      have hlen : (r.take (be16 hi lo)).length = be16 hi lo := by simp; omega
      rw [seqBytes, hlen, hi8_be16, lo8_be16]
      exact ⟨by omega, by simp⟩

theorem opOfByte_opByte (o : OpCode) : opOfByte (opByte o) = some o := by cases o <;> rfl

theorem opByte_of_opOfByte {c : Byte} {o : OpCode} (h : opOfByte c = some o) : opByte o = c := by
  simpa using List.find?_some h

theorem decodeCommand_of_operands {o : OpCode} {bytes : List Byte} {i : Instr}
    (h : operandsOf o bytes = some (i, [])) : decodeCommand (opByte o :: bytes) = .ok i := by
  simp [decodeCommand, decodeOp, opOfByte_opByte, h]

/-- A command is decoded exactly where its first byte is a code and its other bytes are that code's operands. -/
theorem decodeCommand_eq_ok {bytes : List Byte} {i : Instr} (h : decodeCommand bytes = .ok i) :
    ∃ o operands, bytes = opByte o :: operands ∧ operandsOf o operands = some (i, []) := by
  rcases bytes with _ | ⟨c, operands⟩
  · cases h
  · cases ho : opOfByte c with
    | none => simp [decodeCommand, decodeOp, ho] at h
    | some o =>
      obtain rfl := opByte_of_opOfByte ho
      rcases hr : operandsOf o operands with _ | ⟨j, _ | ⟨b, rest⟩⟩
      · simp [decodeCommand, decodeOp, ho, hr] at h
      · simp only [decodeCommand, decodeOp, ho, hr, Except.ok.injEq] at h
        exact ⟨o, operands, rfl, by rw [← h, hr]⟩
      · simp [decodeCommand, decodeOp, ho, hr] at h

/-- A well-formed operation's bytes are its code and operands that are read back as it (R96). -/
theorem operandsOf_encode {i : Instr} (hi : isOperation i = true) (hwf : WellFormed i = true) :
    ∃ o operands, encode i = some (opByte o :: operands) ∧ operandsOf o operands = some (i, []) := by
  cases i with
  | reset | rxFlush | enqHb | setHsack | tick | clear | setAck | ackRx => exact ⟨_, _, rfl, rfl⟩
  | xorsum s | verify s | decode s | rxPush s | enqMsg s =>
    have hs : s.length ≤ 65535 := by simpa [WellFormed] using hwf
    exact ⟨_, _, rfl, by simp [operandsOf, seqOperand_whole hs]⟩
  | encode kind ack id payload =>
    have hs : payload.length ≤ 65535 := by simpa [WellFormed] using hwf
    exact ⟨_, _, rfl, by simp [operandsOf, encodeOperands, seqOperand_whole hs]⟩
  | _ => cases hi

/-- An operation with one byte-sequence operand is its code and that operand's bytes. -/
theorem seqOperand_map_eq_some {operands : List Byte} {mk : List Byte → Instr} {i : Instr}
    (h : (seqOperand operands).map (fun r => (mk r.1, r.2)) = some (i, [])) :
    ∃ s, s.length ≤ 65535 ∧ operands = seqBytes s ∧ i = mk s := by
  obtain ⟨⟨s, rest⟩, hs, heq⟩ := Option.map_eq_some_iff.1 h
  obtain ⟨rfl, rfl⟩ : mk s = i ∧ rest = [] := by simpa using heq
  obtain ⟨hlen, hbytes⟩ := seqOperand_eq_some hs
  exact ⟨s, hlen, by simpa using hbytes, rfl⟩

/-- What is read from an operation's operands is well formed and is encoded as exactly these bytes (R96). -/
theorem encode_of_operandsOf {o : OpCode} {operands : List Byte} {i : Instr}
    (h : operandsOf o operands = some (i, [])) :
    WellFormed i = true ∧ isOperation i = true ∧ encode i = some (opByte o :: operands) := by
  cases o with
  | reset | rxFlush | enqHb | setHsack | tick | clear =>
    cases h
    exact ⟨rfl, rfl, rfl⟩
  | xorsum | verify | decode | rxPush | enqMsg =>
    obtain ⟨s, hlen, rfl, rfl⟩ := seqOperand_map_eq_some h
    exact ⟨by simpa [WellFormed] using hlen, rfl, rfl⟩
  | setAck | ackRx =>
    match operands, h with
    | [b], rfl => exact ⟨rfl, rfl, rfl⟩
  | encode =>
    match operands, h with
    | kind :: ack :: id :: rest, h =>
      obtain ⟨s, hlen, rfl, rfl⟩ := seqOperand_map_eq_some (mk := .encode kind ack id) h
      exact ⟨by simpa [WellFormed] using hlen, rfl, rfl⟩

/-- An arm has no code (R97). -/
theorem encode_arm {i : Instr} (ho : isOperation i = false) (hf : isForm i = false) (he : isEmission i = false) :
    encode i = none := by
  cases i with
  | ctrl0 | data | handshake | handshakeAck | unknown => cases hf
  | txData | txHeartbeat | txBareAck | txHandshakeAck | txHandshake => cases he
  | rsmEnd | rsmSkip | rsmDiscard | rsmWait | rsmExtract => rfl
  | tHsack | tCollapse | tHb | tMsg | tExhausted | tBareack | tIdle => rfl
  | _ => cases ho

/-- Settles O9: operands are read back from their bytes, and a frame as its packet's form. -/
theorem decodeOfEncodeAgrees : Obligations.DecodeOfEncodeAgrees := by
  intro i hwf
  refine ⟨fun hi => ?_, fun hi => ?_, fun hi => ?_, encode_arm⟩
  · obtain ⟨o, operands, henc, hops⟩ := operandsOf_encode hi hwf
    exact ⟨_, henc, decodeCommand_of_operands hops⟩
  · obtain ⟨p, hp, rfl⟩ := form_is_formOf hi hwf
    rw [encode_formOf]
    exact decodeFrame_encodeFrame hp
  · obtain ⟨p, hp, henc, hpeer⟩ := peerForm_is_formOf hi hwf
    rw [henc, ← hpeer]
    exact decodeFrame_encodeFrame hp

/-- Settles O10: a command is its code and operands; an accepted frame is the encoding of its packet. -/
theorem encodeOfDecodeAgrees : Obligations.EncodeOfDecodeAgrees := by
  refine ⟨fun bytes i h => ?_, fun f i h => ?_⟩
  · obtain ⟨o, operands, rfl, hops⟩ := decodeCommand_eq_ok h
    exact encode_of_operandsOf hops
  · cases hv : verifyFrame f with
    | bad c => simp [decodeFrame, hv] at h
    | ok =>
      obtain rfl : formOf (packetFields f) = i := by simpa [decodeFrame, hv] using h
      have hfits : (packetFields f).payload.length ≤ 1014 :=
        decodePacket_payload_fits ((decodePacket_eq_some _ _).2 ⟨hv, rfl⟩)
      refine ⟨wellFormed_formOf hfits, isForm_formOf _, ?_⟩
      rw [encode_formOf, encodeFrame_fits hfits, buildFrame_packetFields hv]

theorem isOperation_of_decodeCommand {bytes : List Byte} {i : Instr} (h : decodeCommand bytes = .ok i) :
    isOperation i = true := by
  obtain ⟨-, hop, -⟩ := encodeOfDecodeAgrees.1 bytes i h
  exact hop

/-- Settles O11: the decoders are run on each byte string. -/
theorem sampleWordsDecode : Obligations.SampleWordsDecode := by
  unfold Obligations.SampleWordsDecode
  decide

/-- Settles O12: no row of the table has the code, so the command is rejected before its operands are looked at. -/
theorem unknownCodeIsRejected : Obligations.UnknownCodeIsRejected := by
  intro s c operands rest hin hc
  have hcode : opOfByte c = none := by
    refine List.find?_eq_none.2 fun o _ hoc => hc ?_
    have heq : opByte o = c := by simpa using hoc
    subst heq
    cases o <;> decide
  have hdec : decodeCommand (c :: operands) = .error (.badOperation c) := by simp [decodeCommand, decodeOp, hcode]
  simp [step, fetch, hin, fetchInput, fetchCommand, hdec, rejectOperation, quiet, answer]

end Sys2Proof.Machine
end

section
/-! The Stream Reassembler's whole loop (41_reassembler.md R130, R138-R141): where it comes to rest, its arms one by one, a
frame in pieces, garbage before a frame, and the cut of a stream into chunks. -/

namespace Sys2Proof.Machine

theorem execAll_cons {i : Instr} {rest : List Instr} {s t : State} (h : exec i s = .next t) :
    execAll (i :: rest) s = execAll rest t := by
  simp [execAll, h]

theorem execAll_singleton {i : Instr} {s t : State} (h : exec i s = .next t) : execAll [i] s = some t :=
  execAll_cons h

/-! ## Rest, and the size of what rests (R139) -/

theorem rbAtRest_length {rb : List Byte} (h : RbAtRest rb) : rb.length ≤ 1023 := by
  rcases h with h | ⟨-, hfits, hshort⟩ <;> omega

/-- A buffer at rest is left alone: its arm is RSM_END or RSM_WAIT. -/
theorem reassemble_of_rest {rb : List Byte} (h : RbAtRest rb) : reassemble rb = (rb, []) := by
  by_cases h7 : rb.length < 7
  · exact reassemble_finish (rsmArm_finish h7)
  · obtain ⟨hsync, hfits, hshort⟩ := h.resolve_left h7
    exact reassemble_wait (rsmArm_wait (by omega) hsync hfits hshort)

/-- Settles O16: the loop leaves a suffix at rest; a chunk over the bound is rejected before the loop. -/
theorem rxPushEndsAtRest : Obligations.RxPushEndsAtRest := by
  refine fun s c hf => ⟨fun hc => ?_, fun hc => ?_⟩
  · obtain ⟨hsuffix, hrest, -⟩ := reassemble_spec _ (s.blk.rb ++ c) le_rfl
    exact ⟨_, _, exec_rxPush_fits hf hc, hsuffix, hrest, rbAtRest_length hrest⟩
  · have hover : limitBelow s.par.chunkMax c.length = true := by
      simpa using mt (chunkFits_iff s.par c).1 hc
    exact perform_gated_answer hf (by simp [hover])

/-- Settles O24: the loop leaves a buffer at rest alone. -/
theorem emptyChunkChangesNothing : Obligations.EmptyChunkChangesNothing := by
  intro s hf hrest
  have hloop : reassemble (s.blk.rb ++ []) = (s.blk.rb, []) := by simpa using reassemble_of_rest hrest
  exact exec_rxPush_no_packet hf (chunkFits_nil s.par) hloop

/-- Settles O28. -/
theorem rxFlushEmptiesTheBuffer : Obligations.RxFlushEmptiesTheBuffer :=
  fun _ hf => ⟨_, rfl, perform_gated hf rfl rfl rfl, perform_gated hf rfl rfl rfl⟩

/-! ## The loop's arms, one by one (R36 a, R130) -/

/-- Running the arms of the trace leaves what the loop leaves, and hands the host the loop's packets. -/
theorem execAll_rsmTrace (n : Nat) : ∀ s : State, s.blk.fault = none → s.blk.rb.length ≤ n →
    ∃ u, execAll ((rsmTrace n s.blk.rb).map rsmInstr) s = some u ∧
      u.blk = { s.blk with rb := (reassemble s.blk.rb).1 } ∧
      u.host = { s.host with todo := s.host.todo ++ (reassemble s.blk.rb).2 } := by
  induction n with
  | zero =>
    intro s hf hlen
    have hrb : s.blk.rb = [] := by simpa using hlen
    have harm : rsmArm s.blk.rb = .finish := rsmArm_finish (by simp [hrb])
    refine ⟨_, execAll_singleton (exec_rsmInstr_selected hf harm), ?_⟩
    simp [reassemble_finish harm, rsmRun, rsmEnd]
  | succ n ih =>
    intro s hf hlen
    have harm := exec_rsmInstr_selected (s := s) hf rfl
    rw [rsmTrace, reassemble_eq]
    cases hends : rsmEnds (rsmArm s.blk.rb) with
    | true => exact ⟨_, execAll_singleton harm, rfl, rfl⟩
    | false =>
      have hshorter := rsmRun_shorter hends
      obtain ⟨u, hrun, hblk, hhost⟩ := ih { s with
        blk := { s.blk with rb := (rsmRun s.blk.rb (rsmArm s.blk.rb)).1 }
        host := { s.host with todo := s.host.todo ++ (rsmRun s.blk.rb (rsmArm s.blk.rb)).2 }
        out := { rx := (rsmRun s.blk.rb (rsmArm s.blk.rb)).2 } } hf (by dsimp only; omega)
      refine ⟨u, (execAll_cons harm).trans hrun, hblk, ?_⟩
      rw [hhost]
      simp

/-- Settles O22: both sides are what the loop leaves and presents. -/
theorem rxPushIsItsArms : Obligations.RxPushIsItsArms := by
  intro s c hf hc
  obtain ⟨u, hrun, hblk, hhost⟩ :=
    execAll_rsmTrace _ { s with blk := { s.blk with rb := s.blk.rb ++ c } } hf le_rfl
  exact ⟨_, u, exec_rxPush_fits hf hc, hrun, hblk.symm, hhost.symm⟩

/-! ## The one arm that can be taken (R36, R97) -/

theorem exec_rsmInstr_refused {a : RsmArm} {s : State} (hf : s.blk.fault = none) (ha : rsmArm s.blk.rb ≠ a) :
    exec (rsmInstr a) s = .refused .armNotSelected := by
  rw [exec_rsmInstr]
  rcases execRsm_cases a (fun rb => rsmRun rb a) s with ⟨hsel, -⟩ | ⟨-, -, href⟩
  · simp [faulted_eq_false hf, ha] at hsel
  · exact href

theorem exec_tickInstr_refused {a : TickArm} {s : State} (hf : s.blk.fault = none)
    (ha : nextTickArm s.par s.blk ≠ a) : exec (tickInstr a) s = .refused .armNotSelected := by
  rw [exec_tickInstr]
  rcases execTickArm_cases a (fun before b => tickRun before b a) s with ⟨hsel, -⟩ | ⟨-, -, href⟩
  · simp [faulted_eq_false hf, ha] at hsel
  · exact href

theorem mem_rsmArms_iff (i : Instr) : i ∈ rsmArms ↔ ∃ a, rsmInstr a = i := by
  constructor
  · intro h
    simp only [rsmArms, List.mem_cons, List.not_mem_nil, or_false] at h
    rcases h with rfl | rfl | rfl | rfl | rfl
    exacts [⟨.finish, rfl⟩, ⟨.skip, rfl⟩, ⟨.discard, rfl⟩, ⟨.wait, rfl⟩, ⟨.extract, rfl⟩]
  · rintro ⟨a, rfl⟩
    cases a <;> decide

theorem mem_tickArms_iff (i : Instr) : i ∈ tickArms ↔ ∃ a, tickInstr a = i := by
  constructor
  · intro h
    simp only [tickArms, List.mem_cons, List.not_mem_nil, or_false] at h
    rcases h with rfl | rfl | rfl | rfl | rfl | rfl | rfl
    exacts [⟨.hsack, rfl⟩, ⟨.collapse, rfl⟩, ⟨.hb, rfl⟩, ⟨.msg, rfl⟩, ⟨.exhausted, rfl⟩, ⟨.bareack, rfl⟩, ⟨.idle, rfl⟩]
  · rintro ⟨a, rfl⟩
    cases a <;> decide

/-- Settles O23: in each loop the selector's arm completes and every other is refused. -/
theorem exactlyOneArmIsSelected : Obligations.ExactlyOneArmIsSelected := by
  refine fun s hf => ⟨⟨_, (mem_rsmArms_iff _).2 ⟨rsmArm s.blk.rb, rfl⟩, ⟨_, exec_rsmInstr_selected hf rfl⟩, ?_⟩,
    ⟨_, (mem_tickArms_iff _).2 ⟨nextTickArm s.par s.blk, rfl⟩, ⟨_, exec_tickInstr_selected hf rfl⟩, ?_⟩⟩
  · intro j hj hne
    obtain ⟨a, rfl⟩ := (mem_rsmArms_iff j).1 hj
    exact exec_rsmInstr_refused hf fun h => hne (by rw [h])
  · intro j hj hne
    obtain ⟨a, rfl⟩ := (mem_tickArms_iff j).1 hj
    exact exec_tickInstr_refused hf fun h => hne (by rw [h])

/-! ## A valid frame (R140) -/

section
variable {f : List Byte} {p : Packet} (hdec : decodePacket f = some p)
include hdec

theorem frame_lengthOk : LengthOk f := by
  obtain ⟨hok, -⟩ := (decodePacket_eq_some f p).1 hdec
  obtain ⟨hlen, -⟩ := (verifyFrame_ok_iff f).1 hok
  exact hlen

theorem frame_sync : f.take 2 = [0x55#8, 0xAA#8] := by
  obtain ⟨hok, -⟩ := (decodePacket_eq_some f p).1 hdec
  obtain ⟨⟨h10, -⟩, hsync, -⟩ := (verifyFrame_ok_iff f).1 hok
  exact (syncAtFront_iff (by omega)).1 hsync

/-- The loop on a valid frame presents its packet and leaves nothing. -/
theorem reassemble_frame : reassemble f = ([], [p]) := by
  obtain ⟨h10, hfits, hlen⟩ := frame_lengthOk hdec
  have harm := rsmArm_extract (by omega) (frame_sync hdec) hfits hlen.ge
  have hframe : frameLen f = f.length := by simp [frameLen, hlen]
  rw [reassemble_extract harm, hframe, List.take_length, List.drop_length, reassemble_nil, hdec]
  rfl

/-- The loop waits on a part of a valid frame. -/
theorem reassemble_partial_frame {x d : List Byte} (hx : x ++ d = f) (hd : d ≠ []) : reassemble x = (x, []) := by
  refine reassemble_of_rest ?_
  by_cases h7 : x.length < 7
  · exact .inl h7
  · obtain ⟨-, hfits, hlen⟩ := frame_lengthOk hdec
    have hdl : declaredLen x = declaredLen f := by rw [← hx, declaredLen_append d (by omega)]
    have hsync : x.take 2 = [0x55#8, 0xAA#8] := by
      rw [← frame_sync hdec, ← hx, List.take_append_of_le_length (by omega)]
    have hpos := List.length_pos_iff.2 hd
    have hsum : x.length + d.length = f.length := by rw [← hx, List.length_append]
    exact .inr ⟨hsync, by omega, by omega⟩

/-- The loop drops every byte of garbage that holds no sync pair, and comes to the frame (R132). -/
theorem reassemble_garbage_frame (g : List Byte) (hg : noSyncPair g = true) : reassemble (g ++ f) = ([], [p]) := by
  induction g with
  | nil => exact reassemble_frame hdec
  | cons a g ih =>
    have h10 := (frame_lengthOk hdec).1
    have hskip : (a :: g ++ f).take 2 ≠ [0x55#8, 0xAA#8] ∧ noSyncPair g = true := by
      cases g with
      | nil =>
        obtain ⟨t, ht⟩ : ∃ t, f = 0x55#8 :: t := by
          match f, frame_sync hdec with
          | b :: t, h => exact ⟨t, by simp at h; rw [h.1]⟩
        exact ⟨by simp [ht], rfl⟩
      | cons b g =>
        simp only [noSyncPair, Bool.and_eq_true] at hg
        exact ⟨by simpa [Classical.or_iff_not_imp_left] using hg.1, hg.2⟩
    have harm : rsmArm (a :: g ++ f) = .skip := rsmArm_skip (by simp; omega) hskip.1
    rw [reassemble_skip harm]
    exact ih hskip.2

end

/-- Settles O26. -/
theorem garbageBeforeFrameIsSkipped : Obligations.GarbageBeforeFrameIsSkipped := by
  intro s g f p hf hrb hdec hg hc
  have hblk : s.blk = { s.blk with rb := [] } := by rw [← hrb]
  rw [exec_rxPush_fits hf hc, hrb, List.nil_append, reassemble_garbage_frame hdec g hg, ← hblk]

/-- Chunks with no byte in them change nothing where nothing is held. -/
theorem execAll_empty_chunks (cs : List (List Byte)) (hcs : cs.flatten = []) : ∀ s : State, s.blk.fault = none →
    s.blk.rb = [] → ∃ o, execAll (cs.map .rxPush) s = some { s with out := o } := by
  induction cs with
  | nil => exact fun s _ _ => ⟨s.out, rfl⟩
  | cons c cs ih =>
    intro s hf hrb
    obtain ⟨rfl, hflat⟩ : c = [] ∧ cs.flatten = [] := by simpa using hcs
    have hpush := emptyChunkChangesNothing s hf (.inl (by simp [hrb]))
    obtain ⟨o, ho⟩ := ih hflat { s with out := { ret := [.packets []] } } hf hrb
    exact ⟨o, (execAll_cons hpush).trans ho⟩

/-- A valid frame of which RB holds a part and the chunks bring the rest is presented once. -/
theorem execAll_rest_of_frame {f : List Byte} {p : Packet} (hdec : decodePacket f = some p) (cs : List (List Byte)) :
    ∀ s : State, s.blk.fault = none → (∀ c ∈ cs, ChunkFits s.par c) → s.blk.rb ++ cs.flatten = f →
      cs.flatten ≠ [] → ∃ o, execAll (cs.map .rxPush) s = some { s with
        blk := { s.blk with rb := [] }
        host := { s.host with todo := s.host.todo ++ [p] }
        out := o } := by
  induction cs with
  | nil => exact fun s _ _ _ hne => absurd rfl hne
  | cons c cs ih =>
    intro s hf hcs hx _
    have hpush := exec_rxPush_fits hf (hcs c List.mem_cons_self)
    rw [List.flatten_cons, ← List.append_assoc] at hx
    by_cases hrest : cs.flatten = []
    · rw [hrest, List.append_nil] at hx
      rw [hx, reassemble_frame hdec] at hpush
      obtain ⟨o, ho⟩ := execAll_empty_chunks cs hrest { s with blk := { s.blk with rb := [] }, host := _, out := _ } hf rfl
      exact ⟨o, (execAll_cons hpush).trans ho⟩
    · rw [reassemble_partial_frame hdec hx hrest] at hpush
      obtain ⟨o, ho⟩ := ih { s with blk := { s.blk with rb := s.blk.rb ++ c }, host := _, out := _ } hf
        (fun d hd => hcs d (List.mem_cons_of_mem c hd)) hx hrest
      exact ⟨o, (execAll_cons hpush).trans (by simpa using ho)⟩

/-- Settles O25. -/
theorem cutFrameIsReassembled : Obligations.CutFrameIsReassembled := by
  intro s f p cs hf hrb hdec hflat hcs
  have hne : cs.flatten ≠ [] := by
    have h10 := (frame_lengthOk hdec).1
    rw [hflat]
    rintro rfl
    simp at h10
  obtain ⟨o, ho⟩ := execAll_rest_of_frame hdec cs s hf hcs (by rw [hrb, hflat, List.nil_append]) hne
  exact ⟨_, ho, by rw [← hrb], rfl, rfl, rfl⟩

/-! ## The cut of a stream into chunks (R141) -/

/-- An arm that goes on is chosen by bytes that more bytes behind them do not change. -/
theorem rsmArm_append {x : List Byte} (d : List Byte) (h : rsmEnds (rsmArm x) = false) :
    rsmArm (x ++ d) = rsmArm x := by
  have hlong (h7 : 7 ≤ x.length) : 7 ≤ (x ++ d).length := by
    rw [List.length_append]
    omega
  have hsync (h7 : 7 ≤ x.length) : syncAtFront x = true ↔ (x ++ d).take 2 = [0x55#8, 0xAA#8] := by
    rw [← syncAtFront_append d h7, syncAtFront_iff (hlong h7)]
  rcases rsmArm_cases x with ⟨harm, -⟩ | ⟨harm, h7, hs⟩ | ⟨harm, h7, hs, hbig⟩ | ⟨harm, -⟩ | ⟨harm, h7, hs, hfits, hheld⟩
  · simp [harm, rsmEnds] at h
  · rw [harm, rsmArm_skip (hlong h7) fun ht => by simp [(hsync h7).2 ht] at hs]
  · rw [harm, rsmArm_discard (hlong h7) ((hsync h7).1 hs) (by rwa [declaredLen_append d h7])]
  · simp [harm, rsmEnds] at h
  · have hheld' : 10 + declaredLen (x ++ d) ≤ (x ++ d).length := by
      rw [declaredLen_append d h7, List.length_append]
      exact le_trans hheld (Nat.le_add_right _ _)
    rw [harm, rsmArm_extract (hlong h7) ((hsync h7).1 hs) (by rwa [declaredLen_append d h7]) hheld']

/-- What an arm that goes on and discards nothing leaves has the bytes behind it untouched. -/
theorem rsmRun_append {x : List Byte} (d : List Byte) (h : rsmEnds (rsmArm x) = false)
    (hno : rsmArm x ≠ .discard) :
    rsmRun (x ++ d) (rsmArm x) = ((rsmRun x (rsmArm x)).1 ++ d, (rsmRun x (rsmArm x)).2) := by
  rcases rsmArm_cases x with ⟨harm, -⟩ | ⟨harm, h7, -⟩ | ⟨harm, -⟩ | ⟨harm, -⟩ | ⟨harm, h7, -, -, hheld⟩
  · simp [harm, rsmEnds] at h
  · rw [harm]
    simp [rsmRun, rsmSkip, rbDropOne, List.drop_append_of_le_length (show 1 ≤ x.length by omega)]
  · exact absurd harm hno
  · simp [harm, rsmEnds] at h
  · have hframe : frameLen (x ++ d) = frameLen x := by rw [frameLen, declaredLen_append d h7, frameLen]
    rw [harm]
    simp [rsmRun, rsmExtract, rbAfter, rbFront, hframe, List.drop_append_of_le_length hheld,
      List.take_append_of_le_length hheld]

/-- An arm that ends the loop leaves the buffer as it was. -/
theorem reassemble_of_end {x : List Byte} (h : rsmEnds (rsmArm x) = true) : reassemble x = (x, []) := by
  cases harm : rsmArm x with
  | finish => exact reassemble_finish harm
  | wait => exact reassemble_wait harm
  | skip | discard | extract => simp [harm, rsmEnds] at h

/-- Where no discard happens, the loop may be run on a front part first, and then on what it left with the rest. -/
theorem reassemble_append (d : List Byte) (n : Nat) : ∀ x : List Byte, (x ++ d).length ≤ n →
    RsmArm.discard ∉ rsmTrace n (x ++ d) →
    reassemble (x ++ d) = ((reassemble ((reassemble x).1 ++ d)).1,
      (reassemble x).2 ++ (reassemble ((reassemble x).1 ++ d)).2) := by
  induction n with
  | zero =>
    intro x hlen _
    obtain ⟨rfl, rfl⟩ : x = [] ∧ d = [] := by simpa using hlen
    rfl
  | succ n ih =>
    intro x hlen hno
    cases hends : rsmEnds (rsmArm x) with
    | true =>
      rw [reassemble_of_end hends]
      rfl
    | false =>
      have hshorter := rsmRun_shorter hends
      rw [rsmTrace, rsmArm_append d hends, hends, if_neg (by decide), List.mem_cons, not_or] at hno
      have hrun := rsmRun_append d hends fun h => hno.1 h.symm
      rw [hrun] at hno
      rw [List.length_append] at hlen
      have hrest := ih (rsmRun x (rsmArm x)).1 (by rw [List.length_append]; omega) hno.2
      rw [reassemble_eq (x ++ d), reassemble_eq x, rsmArm_append d hends, hends, if_neg (by decide),
        if_neg (by decide), hrun, hrest, List.append_assoc]

/-- Settles O27. -/
theorem chunkCutsAgreeWithoutDiscard : Obligations.ChunkCutsAgreeWithoutDiscard := by
  intro s c d hf hc hno
  have hcd : ChunkFits s.par c ∧ ChunkFits s.par d := by
    refine ⟨fun m hm => ?_, fun m hm => ?_⟩ <;> have hlen := hc m hm <;> rw [List.length_append] at hlen <;> omega
  have hfirst := exec_rxPush_fits hf hcd.1
  rw [← List.append_assoc] at hno
  have hcut := reassemble_append d _ (s.blk.rb ++ c) le_rfl hno
  refine ⟨_, _, (execAll_cons hfirst).trans (execAll_singleton (exec_rxPush_fits hf hcd.2)), exec_rxPush_fits hf hc, ?_, ?_⟩
  · rw [← List.append_assoc, hcut]
  · rw [← List.append_assoc, hcut]
    simp

end Sys2Proof.Machine
end

section
/-! The Retransmission Scheduler's loading operations (43_scheduler.md R181-R187) and RESET (70_reset_and_hazards.md R260),
each as a step. -/

namespace Sys2Proof.Machine

/-- Settles O29: the size is tested before the capacity. -/
theorem enqMsgQueuesAtTheTail : Obligations.EnqMsgQueuesAtTheTail := by
  refine fun s p hf => ⟨fun hlong => ?_, fun hfits hfull => ?_, fun hfits hroom => ?_⟩
  · exact perform_gated_answer hf (by simp [hlong])
  · exact perform_gated_answer hf (by simp [Nat.not_lt.2 hfits, (limitIs_iff _ _).2 hfull])
  · exact perform_gated hf (by simp [Nat.not_lt.2 hfits, limitIs_iff, hroom, qPush]; rfl) rfl rfl

/-- Settles O30. -/
theorem enqHbQueuesAHeartbeat : Obligations.EnqHbQueuesAHeartbeat := by
  refine fun s hf => ⟨fun hfull => ?_, fun hroom => ?_⟩
  · exact perform_gated_answer hf (by simp [(limitIs_iff _ _).2 hfull])
  · exact perform_gated hf (by simp [limitIs_iff, hroom, qPush]; rfl) rfl rfl

/-- Settles O32: the second SET_ACK writes the value that is already there. -/
theorem setAckOverwritesThePendingAck : Obligations.SetAckOverwritesThePendingAck := by
  refine fun s i hf => ⟨fun hi => ⟨_, rfl, ?_, ?_⟩, fun hi => ?_⟩
  · exact perform_gated hf (by simp [hi]; rfl) rfl rfl
  · exact perform_gated hf (by simp [hi]; rfl) rfl rfl
  · exact perform_gated_answer hf (by simp [hi])

/-- Settles O33: only the head is compared, and only with a nonzero operand. -/
theorem ackRxPopsTheMatchingHead : Obligations.AckRxPopsTheMatchingHead := by
  refine fun s a hf => ⟨fun e rest hq ha he => ?_, fun hno => ?_⟩
  · exact perform_gated hf (by simp [hq, ha, he, qPop]; rfl) rfl rfl
  · refine perform_gated_answer hf ?_
    cases hq : s.blk.q with
    | nil => rfl
    | cons e rest =>
      have hne : ¬ (a ≠ 0#8 ∧ entryId e = a) := by
        rw [hq] at hno
        rintro ⟨ha, he⟩
        exact hno.elim ha fun h => h e rfl he
      simp only [if_neg hne]

/-- Settles O34: the second CLEAR writes the values that are already there. -/
theorem clearWipesTheScheduler : Obligations.ClearWipesTheScheduler :=
  fun _ hf => ⟨_, rfl, perform_gated hf rfl rfl rfl, perform_gated hf rfl rfl rfl⟩

/-- RESET is not gated. -/
theorem exec_reset (s : State) : exec .reset s = .next { s with blk := Block.reset, out := { ret := [.done] } } := by
  have hop : exec .reset s = perform opReset s := rfl
  rw [hop, perform_eq]
  exact congrArg _ (afterOp_of_nothing_presented s _ rfl rfl)

/-- Settles O35: RESET writes the same six values whatever the block holds. -/
theorem resetIsAlwaysAccepted : Obligations.ResetIsAlwaysAccepted :=
  fun s => ⟨_, rfl, exec_reset s, exec_reset _⟩

end Sys2Proof.Machine
end

section
/-! The whole TICK (43_scheduler.md R190-R200): its effect said once, the arms the earlier part leaves, its decomposition
into passes, the bound on retransmissions and the run of ids. -/

namespace Sys2Proof.Machine

/-- What a TICK can do in a block that is not faulted: the block it leaves and what it puts on the ports (R190-R199). -/
inductive TickEffect (par : Params) (b : Block) : Block × Out → Prop
  | hsack (hp : b.phs = true) :
    TickEffect par b ({ b with phs := false }, { ret := [.arm .hsack], tx := [buildFrame 0x02#8 0#8 0#8 []] })
  | bareack (hp : b.phs = false) (hq : b.q = []) (ha : b.pack ≠ 0#8) :
    TickEffect par b ({ b with pack := 0#8 }, { ret := [.arm .bareack], tx := [buildFrame 0x00#8 b.pack 0#8 []] })
  | idle (hp : b.phs = false) (hq : b.q = []) (ha : b.pack = 0#8) :
    TickEffect par b (b, { ret := [.arm .idle] })
  | hb (k : Nat) (hp : b.phs = false) (hq : b.q = List.replicate (k + 1) .hb) :
    TickEffect par b ({ b with q := [], pack := 0#8 },
      { ret := [.arm .hb], tx := [buildFrame 0x00#8 b.pack 0#8 []] })
  | msg (k : Nat) (p : List Byte) (i : Byte) (n : Nat) (rest : List Entry) (hp : b.phs = false)
      (hq : b.q = List.replicate k .hb ++ .msg p i n :: rest) (hm : limitSpent par.retryMax n = false)
      (hfits : p.length ≤ 1014) :
    TickEffect par b ({ b with
        q := .msg p (if i = 0#8 then b.nid else i) (n + 1) :: rest
        nid := if i = 0#8 then nextId b.nid else b.nid
        pack := 0#8 },
      { ret := [.arm .msg], tx := [buildFrame 0x00#8 b.pack (if i = 0#8 then b.nid else i) p] })
  | tooLong (k : Nat) (p : List Byte) (i : Byte) (n : Nat) (rest : List Entry) (hp : b.phs = false)
      (hq : b.q = List.replicate k .hb ++ .msg p i n :: rest) (hlong : 1014 < p.length) :
    TickEffect par b (raiseFault .payloadTooLong b)
  | exhausted (k : Nat) (p : List Byte) (i : Byte) (n : Nat) (rest : List Entry) (hp : b.phs = false)
      (hq : b.q = List.replicate k .hb ++ .msg p i n :: rest) (hm : limitSpent par.retryMax n = true) :
    TickEffect par b ({ b with q := .msg p i n :: rest },
      { ret := [.arm .exhausted], evt := [.retryExhausted i] })

theorem opTick_effect (par : Params) {b : Block} (hf : b.fault = none) : TickEffect par b (opTick par b) := by
  rcases opTick_cases par b hf with ⟨hp, h⟩ | ⟨hp, hq, ha, h⟩ | ⟨hp, hq, ha, h⟩ | ⟨k, hp, hq, h⟩ |
    ⟨k, p, i, n, rest, hp, hq, hm, h⟩ | ⟨k, p, i, n, rest, hp, hq, hm, h⟩
  · rw [h, tHsack, transmit_no_payload]
    exact .hsack hp
  · rw [h, tBareack, transmit_no_payload]
    exact .bareack hp hq ha
  · rw [h]
    exact .idle hp hq ha
  · rw [h, tHb, transmit_no_payload]
    exact .hb k hp hq
  · rcases Nat.lt_or_ge 1014 p.length with hlong | hfits
    · have hrun : tMsg b { b with q := .msg p i n :: rest } = raiseFault .payloadTooLong b :=
        transmit_oversize hlong
      rw [h, hrun]
      exact .tooLong k p i n rest hp hq hlong
    · have hrun : tMsg b { b with q := .msg p i n :: rest } =
          tickRun b { b with q := .msg p i n :: rest } .msg := rfl
      rw [h, hrun, tickRun_msg rfl hfits]
      exact .msg k p i n rest hp hq hm hfits
  · rw [h]
    exact .exhausted k p i n rest hp hq hm

/-- A TICK is its operation, with the host told. -/
theorem exec_tick_afterOp (s : State) :
    exec .tick s = .next (afterOp s (opTick s.par s.blk).1 (opTick s.par s.blk).2) := perform_eq opTick s

/-! ## Single arms (R191, R193, R197) -/

theorem buildFrame_handshakeAck :
    buildFrame 0x02#8 0#8 0#8 [] = [0x55, 0xAA, 0x02, 0x00, 0x00, 0x00, 0x00, 0x02, 0xCC, 0x33] := by decide

theorem buildFrame_handshake :
    buildFrame 0x01#8 0#8 0#8 [] = [0x55, 0xAA, 0x01, 0x00, 0x00, 0x00, 0x00, 0x01, 0xCC, 0x33] := by decide

/-- Settles O36: with PHS = 1 there is no collapse and the selector looks at nothing else. -/
theorem tickSendsHandshakeAckFirst : Obligations.TickSendsHandshakeAckFirst := by
  intro s hf hp
  have hc : collapsible s.blk = false := by simp [collapsible, hp]
  have hboth := exec_arm_and_tick hf hc (tickArm_hsack hp) (transmit_no_payload s.blk _ _ _ _ _)
  rw [← buildFrame_handshakeAck]
  exact ⟨_, afterOp_of_nothing_presented s _ rfl rfl, hboth⟩

/-- A heartbeat alone goes out with the pending ack, by its arm and by a TICK. -/
theorem exec_tHb_and_tick {s : State} (hf : s.blk.fault = none) (hp : s.blk.phs = false) (hq : s.blk.q = [.hb]) :
    exec .tHb s = exec .tick s ∧ exec .tick s = .next { s with
      blk := { s.blk with q := [], pack := 0#8 }
      out := { ret := [.arm .hb], tx := [buildFrame 0x00#8 s.blk.pack 0#8 []] } } := by
  have hc : collapsible s.blk = false := by simp [collapsible, hq]
  have hrun : tickRun s.blk s.blk .hb = ({ s.blk with q := [], pack := 0#8 },
      { ret := [.arm .hb], tx := [buildFrame 0x00#8 s.blk.pack 0#8 []] }) := by
    simp [tickRun, tHb, transmit_no_payload, hq, qPop]
  obtain ⟨harm, htick⟩ := exec_arm_and_tick hf hc (tickArm_hb hp hq) hrun
  rw [afterOp_of_nothing_presented s _ rfl rfl] at htick harm
  exact ⟨harm.trans htick.symm, htick⟩

/-- Settles O38: the heartbeats before the last are collapsed, and the last goes out. -/
theorem loneHeartbeatCarriesTheAck : Obligations.LoneHeartbeatCarriesTheAck := by
  refine fun s hf hp => ⟨fun hq => (exec_tHb_and_tick hf hp hq).1, fun k hq => ?_⟩
  have hcollapse : collapse s.blk.q = collapse [.hb] := by
    rw [hq, List.replicate_succ']
    exact collapse_leading k .hb []
  have hfit : PayloadsFit [.hb] := fun e he => by
    rw [List.mem_singleton.1 he]
    exact Nat.zero_le _
  rw [exec_tick_of_collapse_eq hf hp hcollapse hfit, ← buildFrame_ack_alone]
  exact (exec_tHb_and_tick (s := { s with blk := { s.blk with q := [.hb] } }) hf hp rfl).2

/-- Settles O40: with a message at the head there is nothing to collapse, and the retry bound chooses T_EXHAUSTED. -/
theorem exhaustedHeadOnlyRaisesTheEvent : Obligations.ExhaustedHeadOnlyRaisesTheEvent := by
  intro s p i n m rest hf hp hq hm hn
  have hc := not_collapsible_of_head_not_hb (b := s.blk) (by simp [headIsHb, hq])
  have ha := tickArm_exhausted hp hq ((limitSpent_iff s.par.retryMax n).2 ⟨m, hm, hn⟩)
  have hrun : tickRun s.blk s.blk .exhausted =
      (s.blk, { ret := [.arm .exhausted], evt := [.retryExhausted i] }) := by
    simp [tickRun, tExhausted, hq, entryId]
  refine ⟨_, ?_, exec_arm_and_tick hf hc ha hrun⟩
  simp [afterOp]

/-! ## The passes of a TICK (R36 b) -/

theorem tickInstr_eq_tCollapse_iff (a : TickArm) : tickInstr a = .tCollapse ↔ a = .collapse := by
  cases a <;> simp [tickInstr]

/-- With nothing to collapse a TICK is the one arm the selector chooses. -/
theorem exec_tick_is_one_arm {s : State} (hf : s.blk.fault = none) (hc : collapsible s.blk = false) :
    ∃ i t, i ∈ tickArms ∧ i ≠ .tCollapse ∧ exec i s = .next t ∧ exec .tick s = .next t := by
  have hboth := exec_arm_and_tick hf hc (a := tickArmOf (tickSel s.par s.blk)) rfl rfl
  refine ⟨_, _, (mem_tickArms_iff _).2 ⟨_, rfl⟩, ?_, hboth⟩
  rw [ne_eq, tickInstr_eq_tCollapse_iff]
  exact tickArmOf_ne_collapse _

/-- A TICK reads nothing of the ports' record. -/
theorem exec_tick_out (s : State) (o : Out) : exec .tick { s with out := o } = exec .tick s := rfl

/-- By induction on the queue: a collapsible head is one pass, and otherwise one arm is the whole TICK. -/
theorem tick_is_collapses_then_arm (n : Nat) : ∀ s : State, s.blk.fault = none → PayloadsFit s.blk.q →
    s.blk.q.length ≤ n → ∃ k i t, i ∈ tickArms ∧ i ≠ .tCollapse ∧
      execAll (List.replicate k .tCollapse ++ [i]) s = some t ∧ exec .tick s = .next t := by
  induction n with
  | zero =>
    intro s hf _ hlen
    have hq : s.blk.q = [] := by simpa using hlen
    obtain ⟨i, t, hi, hne, harm, htick⟩ := exec_tick_is_one_arm hf (by simp [collapsible, hq])
    exact ⟨0, i, t, hi, hne, execAll_singleton harm, htick⟩
  | succ n ih =>
    intro s hf hfit hlen
    cases hc : collapsible s.blk with
    | false =>
      obtain ⟨i, t, hi, hne, harm, htick⟩ := exec_tick_is_one_arm hf hc
      exact ⟨0, i, t, hi, hne, execAll_singleton harm, htick⟩
    | true =>
      obtain ⟨hp, e, rest, hq⟩ := (collapsible_iff s.blk).1 hc
      rw [hq] at hfit hlen
      have hfit' : PayloadsFit (e :: rest) := fun x hx => hfit x (List.mem_cons_of_mem _ hx)
      obtain ⟨hpass, htick⟩ := leadingHeartbeatsCollapse.2 s e rest hf hp
      obtain ⟨k, i, t, hi, hne, hrun, hrest⟩ :=
        ih { s with blk := { s.blk with q := e :: rest }, out := {} } hf hfit' (by simpa using hlen)
      refine ⟨k + 1, i, t, hi, hne, (execAll_cons (hpass hq)).trans hrun, ?_⟩
      rw [htick 1 hq hfit', ← hrest]
      exact (exec_tick_out _ _).symm

/-- Settles O43. -/
theorem tickIsCollapsesThenOneArm : Obligations.TickIsCollapsesThenOneArm :=
  fun s hf hfit => tick_is_collapses_then_arm _ s hf hfit le_rfl

/-! ## The ack on the frame (R196, R200) -/

theorem buildFrame_ackByte (kind ack id : Byte) (p : List Byte) : (buildFrame kind ack id p).getD 3 0#8 = ack := by
  rw [buildFrame_eq]
  rfl

/-- A queue whose payloads fit has no head that is too long. -/
theorem payload_fits_of_mem {q : List Entry} {k : Nat} {p : List Byte} {i : Byte} {n : Nat} {rest : List Entry}
    (h : PayloadsFit q) (hq : q = List.replicate k .hb ++ .msg p i n :: rest) : p.length ≤ 1014 :=
  h (.msg p i n) (by rw [hq]; exact List.mem_append_right _ List.mem_cons_self)

/-- Settles O44: arm by arm, where T_HSACK is excluded by PHS = 0 and T_IDLE by the pending ack. -/
theorem pendingAckRidesTheOneFrame : Obligations.PendingAckRidesTheOneFrame := by
  intro s hf hfit
  refine ⟨_, exec_tick_afterOp s, ?_⟩
  simp only [afterOp_out, afterOp_blk]
  have heff := opTick_effect s.par hf
  generalize opTick s.par s.blk = r at heff ⊢
  cases heff with
  | hsack hp => exact ⟨by simp, hf, by simp, by simp [hp]⟩
  | bareack hp hq ha => exact ⟨by simp, hf, by simp, fun _ _ => .inl ⟨_, rfl, buildFrame_ackByte _ _ _ _, rfl⟩⟩
  | idle hp hq ha => exact ⟨by simp, hf, by simp, fun _ hne => absurd ha hne⟩
  | hb k hp hq => exact ⟨by simp, hf, by simp, fun _ _ => .inl ⟨_, rfl, buildFrame_ackByte _ _ _ _, rfl⟩⟩
  | msg k p i n rest hp hq hm hlen =>
    exact ⟨by simp, hf, by simp, fun _ _ => .inl ⟨_, rfl, buildFrame_ackByte _ _ _ _, rfl⟩⟩
  | tooLong k p i n rest hp hq hlong => exact absurd (payload_fits_of_mem hfit hq) (Nat.not_le.2 hlong)
  | exhausted k p i n rest hp hq hm => exact ⟨by simp, hf, fun _ => rfl, fun _ _ => .inr ⟨rfl, rfl, rfl⟩⟩

/-! ## The bound on retransmissions (R197) -/

theorem execAll_append {s t : State} {l : List Instr} (m : List Instr) (h : execAll l s = some t) :
    execAll (l ++ m) s = execAll m t := by
  induction l generalizing s with
  | nil =>
    cases h
    rfl
  | cons i l ih =>
    cases hi : exec i s with
    | next u =>
      rw [execAll_cons hi] at h
      rw [List.cons_append, execAll_cons hi]
      exact ih h
    | fault | refused => simp [execAll, hi] at h

/-- A block that is not faulted and owes no HandshakeAck holds at its head a message that was sent `n` times and goes out,
or went out, under `j`. -/
structure HeadAt (par : Params) (p : List Byte) (j : Byte) (n : Nat) (rest : List Entry) (s : State) : Prop where
  par_eq : s.par = par
  noFault : s.blk.fault = none
  noHsack : s.blk.phs = false
  head : ∃ i, s.blk.q = .msg p i n :: rest ∧ (if i = 0#8 then s.blk.nid else i) = j ∧ (0 < n → i = j)

section
variable {par : Params} {p : List Byte} {j : Byte} {rest : List Entry} (hj : j ≠ 0#8) (hp : p.length ≤ 1014)
include hj hp

/-- Below the bound a tick sends the message once more, under its id. -/
theorem headAt_tick_sends {n : Nat} {s : State} (h : HeadAt par p j n rest s) (hm : MaySend par n) :
    ∃ u, exec .tick s = .next u ∧ HeadAt par p j (n + 1) rest u ∧ u.out.ret = [.arm .msg] ∧
      u.out.tx.length = 1 ∧ u.blk.q = .msg p j (n + 1) :: rest := by
  obtain ⟨rfl, hf, hphs, i, hq, hij, -⟩ := h
  obtain ⟨f, t, -, ht, -, htick⟩ := headMessageGoesOut s p i n rest hf hphs hq hp hm
  rw [hij] at ht
  subst ht
  exact ⟨_, htick, ⟨rfl, hf, hphs, j, rfl, by rw [if_neg hj], fun _ => rfl⟩, rfl, rfl, rfl⟩

omit hp in
/-- At the bound a tick only raises the event, and the head stays as it is. -/
theorem headAt_tick_exhausted {m : Nat} {s : State} (h : HeadAt par p j (1 + m) rest s) (hm : par.retryMax = .fin m) :
    ∃ u, u = { s with
        host := { s.host with exhausted := some j }
        out := { ret := [.arm .exhausted], evt := [.retryExhausted j] } } ∧
      exec .tick s = .next u ∧ HeadAt par p j (1 + m) rest u := by
  obtain ⟨rfl, hf, hphs, i, hq, hij, hi⟩ := h
  obtain rfl := hi (by omega)
  obtain ⟨t, rfl, -, htick⟩ := exhaustedHeadOnlyRaisesTheEvent s p i (1 + m) m rest hf hphs hq hm le_rfl
  exact ⟨_, rfl, htick, rfl, hf, hphs, i, hq, by rw [if_neg hj], fun _ => rfl⟩

/-- After `k` ticks the message was sent `k` times, but never more often than the bound allows. -/
theorem headAt_after_ticks {m : Nat} (hm : par.retryMax = .fin m) {s : State} (h : HeadAt par p j 0 rest s) (k : Nat) :
    ∃ t, execAll (List.replicate k .tick) s = some t ∧ HeadAt par p j (min k (1 + m)) rest t := by
  induction k with
  | zero => exact ⟨s, rfl, by simpa using h⟩
  | succ k ih =>
    obtain ⟨t, hrun, ht⟩ := ih
    rw [List.replicate_succ', execAll_append _ hrun]
    by_cases hk : k < 1 + m
    · rw [Nat.min_eq_left (by omega)] at ht
      have hsend : MaySend par k := fun m' hm' => by rw [hm] at hm'; cases hm'; exact hk
      obtain ⟨u, htick, hu, -⟩ := headAt_tick_sends hj hp ht hsend
      exact ⟨u, execAll_singleton htick, by rwa [Nat.min_eq_left (by omega)]⟩
    · rw [Nat.min_eq_right (by omega)] at ht
      obtain ⟨u, -, htick, hu⟩ := headAt_tick_exhausted hj ht hm
      exact ⟨u, execAll_singleton htick, by rwa [Nat.min_eq_right (by omega)]⟩

end

/-- Settles O45. -/
theorem retryBoundIsKept : Obligations.RetryBoundIsKept := by
  intro s p rest m hf hphs hq hp hnid hm
  have hstart : HeadAt s.par p s.blk.nid 0 rest s := ⟨rfl, hf, hphs, 0#8, hq, by simp, by simp⟩
  refine ⟨fun k hk => ?_, fun k hk => ?_⟩
  · obtain ⟨t, hrun, ht⟩ := headAt_after_ticks hnid hp hm hstart k
    rw [Nat.min_eq_left (by omega)] at ht
    have hsend : MaySend s.par k := fun m' hm' => by rw [hm] at hm'; cases hm'; exact hk
    obtain ⟨u, htick, -, hret, htx, hhead⟩ := headAt_tick_sends hnid hp ht hsend
    exact ⟨t, u, hrun, htick, hret, htx, hhead⟩
  · obtain ⟨t, hrun, ht⟩ := headAt_after_ticks hnid hp hm hstart k
    rw [Nat.min_eq_right hk] at ht
    obtain ⟨u, rfl, htick, -⟩ := headAt_tick_exhausted hnid ht hm
    exact ⟨t, hrun, htick⟩

/-! ## The ids (R195, R202) -/

theorem nextId_ofNat {r : Nat} (h : r < 255) : nextId (BitVec.ofNat 8 (r + 1)) = BitVec.ofNat 8 ((r + 1) % 255 + 1) := by
  by_cases hr : r = 254
  · subst hr
    rfl
  · have hne : BitVec.ofNat 8 (r + 1) ≠ 255#8 := by bv_omega
    have hmod : (r + 1) % 255 = r + 1 := Nat.mod_eq_of_lt (by omega)
    rw [nextId, if_neg hne, hmod]
    exact (BitVec.ofNat_add _ _).symm

theorem nextId_iterate (n : Nat) : (nextId^[n]) 1#8 = BitVec.ofNat 8 (n % 255 + 1) := by
  induction n with
  | zero => rfl
  | succ n ih =>
    rw [Function.iterate_succ_apply', ih, nextId_ofNat (Nat.mod_lt n (by decide)), Nat.mod_add_mod]

/-- Settles O46. -/
theorem idsRunOneTo255 : Obligations.IdsRunOneTo255 := by
  refine fun n => ⟨nextId_iterate n, ?_⟩
  have hlt : n % 255 < 255 := Nat.mod_lt n (by decide)
  rw [nextId_iterate]
  bv_omega

end Sys2Proof.Machine
end

section
/-! The host agent (42_connection_host.md R153-R160): what the operations it issues leave of the machine, and what it does
for a received packet of each form. -/

namespace Sys2Proof.Machine

/-! ## Operations that only return a result -/

/-- An operation that puts its result alone on the ports, in every block. -/
def OnlyAnswers (op : BlockOp) : Prop := ∀ par b, ∃ r, (op par b).2 = answer r

theorem onlyAnswers_gated {op : BlockOp} (h : OnlyAnswers op) : OnlyAnswers (gated op) := by
  intro par b
  unfold gated
  split
  · exact ⟨_, rfl⟩
  · exact h par b

theorem onlyAnswers_clear : OnlyAnswers opClear := onlyAnswers_gated fun _ _ => ⟨_, rfl⟩
theorem onlyAnswers_rxFlush : OnlyAnswers opRxFlush := onlyAnswers_gated fun _ _ => ⟨_, rfl⟩
theorem onlyAnswers_setHsack : OnlyAnswers opSetHsack := onlyAnswers_gated fun _ _ => ⟨_, rfl⟩
theorem onlyAnswers_setAck (i : Byte) : OnlyAnswers (opSetAck i) := onlyAnswers_gated fun _ _ => ⟨_, rfl⟩
theorem onlyAnswers_ackRx (a : Byte) : OnlyAnswers (opAckRx a) := by
  refine onlyAnswers_gated fun par b => ?_
  split
  · split <;> exact ⟨_, rfl⟩
  · exact ⟨_, rfl⟩

section
variable {op : BlockOp} (h : OnlyAnswers op) (s : State)
include h

theorem issue_host_of_onlyAnswers : (issue op s).host = s.host := by
  obtain ⟨r, hr⟩ := h s.par s.blk
  simp [hr]

theorem issue_tx_of_onlyAnswers : (issue op s).out.tx = s.out.tx := by
  obtain ⟨r, hr⟩ := h s.par s.blk
  simp [hr]

theorem issue_note_of_onlyAnswers : (issue op s).out.note = s.out.note := by
  obtain ⟨r, hr⟩ := h s.par s.blk
  simp [hr]

end

@[simp] theorem ackField_tx (a : Byte) (s : State) : (ackField a s).out.tx = s.out.tx := by
  unfold ackField
  split
  · rfl
  · exact issue_tx_of_onlyAnswers (onlyAnswers_ackRx a) s

@[simp] theorem ackField_note (a : Byte) (s : State) : (ackField a s).out.note = s.out.note := by
  unfold ackField
  split
  · rfl
  · exact issue_note_of_onlyAnswers (onlyAnswers_ackRx a) s

@[simp] theorem fullReset_tx (s : State) : (fullReset s).out.tx = s.out.tx := by
  unfold fullReset
  dsimp only
  split
  · rfl
  · exact issue_tx_of_onlyAnswers onlyAnswers_clear s

@[simp] theorem fullReset_note (s : State) : (fullReset s).out.note = s.out.note := by
  unfold fullReset
  dsimp only
  split
  · rfl
  · exact issue_note_of_onlyAnswers onlyAnswers_clear s

/-! ## The block after each, while FAULT = 0 -/

theorem opClear_blk {par : Params} {b : Block} (hf : b.fault = none) :
    (opClear par b).1 = { b with q := [], pack := 0#8, phs := false, nid := 1#8 } := by
  rw [opClear, gated_of_no_fault hf]

theorem opSetAck_blk {par : Params} {b : Block} {i : Byte} (hf : b.fault = none) (hi : i ≠ 0#8) :
    (opSetAck i par b).1 = { b with pack := i } := by
  rw [opSetAck, gated_of_no_fault hf, if_neg hi]

theorem opSetAck_q (i : Byte) (par : Params) (b : Block) : (opSetAck i par b).1.q = b.q := by
  unfold opSetAck gated
  split
  · rfl
  · dsimp only
    split <;> rfl

theorem opSetHsack_blk {par : Params} {b : Block} (hf : b.fault = none) :
    (opSetHsack par b).1 = { b with phs := true } := by
  rw [opSetHsack, gated_of_no_fault hf]

theorem opRxFlush_blk {par : Params} {b : Block} (hf : b.fault = none) :
    (opRxFlush par b).1 = { b with rb := [] } := by
  rw [opRxFlush, gated_of_no_fault hf]

@[simp] theorem ackedQueue_nil (a : Byte) : ackedQueue a [] = [] := rfl

@[simp] theorem ackedQueue_zero (q : List Entry) : ackedQueue 0#8 q = q := by
  cases q <;> simp [ackedQueue]

theorem opAckRx_blk {par : Params} {b : Block} (a : Byte) (hf : b.fault = none) :
    (opAckRx a par b).1 = { b with q := ackedQueue a b.q } := by
  rw [opAckRx, gated_of_no_fault hf]
  cases hq : b.q with
  | nil => simp [ackedQueue, ← hq]
  | cons e rest =>
    by_cases hm : a ≠ 0#8 ∧ entryId e = a
    · simp [ackedQueue, hm, qPop]
    · simp only [ackedQueue, if_neg hm, ← hq]

theorem ackField_blk {s : State} (a : Byte) (hf : s.blk.fault = none) :
    (ackField a s).blk = { s.blk with q := ackedQueue a s.blk.q } := by
  unfold ackField
  split
  case isTrue ha => simp [ha]
  case isFalse => exact opAckRx_blk a hf

/-! ## DATA (R156) -/

section
variable {s : State} {a i : Byte} {p : List Byte}

theorem exec_data (hf : s.blk.fault = none) : exec (.data a i p) s = .next (acceptData a i p (quiet s)) :=
  congrArg _ (unlessFaulted_of_no_fault hf)

/-- What an accepted DATA packet leaves, before the payload's delivery. -/
theorem dataAcked_blk (hf : s.blk.fault = none) :
    (issue (opSetAck i) (ackField a (hostRefresh s))).blk =
      (opSetAck i s.par { s.blk with q := ackedQueue a s.blk.q }).1 := by
  have hack := ackField_blk (s := hostRefresh s) a hf
  rw [issue_blk, hack, ackField_par]
  rfl

theorem dataAcked_host : (issue (opSetAck i) (ackField a (hostRefresh s))).host =
    { s.host with lastRx := s.host.now, deadline := limitAdd s.par.livenessMs s.host.now } := by
  rw [issue_host_of_onlyAnswers (onlyAnswers_setAck i), ackField_host, hostRefresh_host]

theorem acceptData_repeat (h : s.host.lastId = some i) :
    acceptData a i p s = issue (opSetAck i) (ackField a (hostRefresh s)) := by
  unfold acceptData
  dsimp only
  rw [dataAcked_host, if_pos h]

theorem acceptData_fresh (h : s.host.lastId ≠ some i) :
    acceptData a i p s =
      let s1 := issue (opSetAck i) (ackField a (hostRefresh s))
      notify (.messageReceived p) { s1 with host := { s1.host with lastId := some i } } := by
  unfold acceptData
  dsimp only
  rw [dataAcked_host, if_neg h]

theorem acceptData_blk_eq (hf : s.blk.fault = none) :
    (acceptData a i p s).blk = (opSetAck i s.par { s.blk with q := ackedQueue a s.blk.q }).1 := by
  by_cases h : s.host.lastId = some i
  · rw [acceptData_repeat h, dataAcked_blk hf]
  · rw [acceptData_fresh h, ← dataAcked_blk hf]
    rfl

theorem acceptData_blk (hf : s.blk.fault = none) (hi : i ≠ 0#8) :
    (acceptData a i p s).blk = { s.blk with q := ackedQueue a s.blk.q, pack := i } := by
  rw [acceptData_blk_eq hf]
  exact opSetAck_blk hf hi

/-- The queue is the acked one whatever the id. -/
theorem acceptData_q (hf : s.blk.fault = none) : (acceptData a i p s).blk.q = ackedQueue a s.blk.q := by
  rw [acceptData_blk_eq hf, opSetAck_q]

theorem acceptData_host : (acceptData a i p s).host = { s.host with
    lastRx := s.host.now, deadline := limitAdd s.par.livenessMs s.host.now, lastId := some i } := by
  by_cases h : s.host.lastId = some i
  · rw [acceptData_repeat h, dataAcked_host, ← h]
  · rw [acceptData_fresh h]
    simp only [notify_host, dataAcked_host]

theorem acceptData_note : (acceptData a i p s).out.note =
    s.out.note ++ if s.host.lastId = some i then [] else [.messageReceived p] := by
  have hnote : (issue (opSetAck i) (ackField a (hostRefresh s))).out.note = s.out.note := by
    rw [issue_note_of_onlyAnswers (onlyAnswers_setAck i), ackField_note, hostRefresh_out]
  by_cases h : s.host.lastId = some i
  · rw [acceptData_repeat h, hnote, if_pos h, List.append_nil]
  · rw [acceptData_fresh h, if_neg h, ← hnote]
    rfl

theorem acceptData_tx : (acceptData a i p s).out.tx = s.out.tx := by
  have htx : (issue (opSetAck i) (ackField a (hostRefresh s))).out.tx = s.out.tx := by
    rw [issue_tx_of_onlyAnswers (onlyAnswers_setAck i), ackField_tx, hostRefresh_out]
  by_cases h : s.host.lastId = some i
  · rw [acceptData_repeat h, htx]
  · rw [acceptData_fresh h]
    exact (List.append_nil _).trans htx

theorem acceptData_par_inbox : (acceptData a i p s).par = s.par ∧ (acceptData a i p s).inbox = s.inbox := by
  by_cases h : s.host.lastId = some i
  · rw [acceptData_repeat h]
    simp
  · rw [acceptData_fresh h]
    simp

end

/-- Settles O55: the second packet finds its id remembered. -/
theorem dataIsAckedAndDeliveredOnce : Obligations.DataIsAckedAndDeliveredOnce := by
  intro s a i p hf hi
  refine ⟨⟨_, exec_data hf, acceptData_blk hf hi, acceptData_host, acceptData_note, acceptData_tx,
    acceptData_par_inbox.1, acceptData_par_inbox.2⟩, fun a' p' => ?_⟩
  have hf' : (acceptData a i p (quiet s)).blk.fault = none := by
    rw [acceptData_blk (s := quiet s) hf hi]
    exact hf
  refine ⟨_, _, exec_data hf, exec_data hf', ?_⟩
  rw [acceptData_note, quiet_host, acceptData_host, if_pos rfl]
  rfl

/-! ## CTRL0, HANDSHAKE_ACK and UNKNOWN (R157, R159, R160) -/

/-- A host that may become Connected after the refresh and the `ack` field: what CTRL0 and HANDSHAKE_ACK have in common. -/
theorem refreshed_then (P : Prop) [Decidable P] (r : Bool) {s : State} (a : Byte) (hf : s.blk.fault = none) :
    let t := if P then becomeConnected r (ackField a (hostRefresh s)) else ackField a (hostRefresh s)
    t.blk = { s.blk with q := ackedQueue a s.blk.q } ∧ t.out.tx = s.out.tx ∧ t.par = s.par ∧ t.inbox = s.inbox ∧
      (P → t.host = { s.host with
          lastRx := s.host.now, deadline := limitAdd s.par.livenessMs s.host.now
          conn := .connected, sendTimer := true, hbTimer := true, everConnected := true } ∧
        t.out.note = s.out.note ++ [.connectSucceeded r]) ∧
      (¬ P → t.host = { s.host with
          lastRx := s.host.now, deadline := limitAdd s.par.livenessMs s.host.now } ∧
        t.out.note = s.out.note) := by
  have hack := ackField_blk (s := hostRefresh s) a hf
  by_cases hP : P <;> simp [hP, hack]

/-- Settles O56. -/
theorem ctrl0RefreshesOrResumes : Obligations.Ctrl0RefreshesOrResumes := by
  intro s a p hf
  have hexec : exec (.ctrl0 a p) s = .next (acceptCtrl0 a (quiet s)) := congrArg _ (unlessFaulted_of_no_fault hf)
  have hform : acceptCtrl0 a (quiet s) = if a ≠ 0#8 ∧ s.host.conn ≠ .connected
      then becomeConnected true (ackField a (hostRefresh (quiet s))) else ackField a (hostRefresh (quiet s)) := by
    simp [acceptCtrl0]
  obtain ⟨hblk, htx, hpar, hin, hyes, hno⟩ :=
    refreshed_then (a ≠ 0#8 ∧ s.host.conn ≠ .connected) true (s := quiet s) a hf
  rw [← hform] at hblk htx hpar hin hyes hno
  exact ⟨_, hexec, hblk, htx, hpar, hin, fun ha hc => hyes ⟨ha, hc⟩, fun h => hno fun ⟨ha, hc⟩ => h.elim ha hc⟩

/-- Settles O58. -/
theorem handshakeAckCompletesAndUnknownIsIgnored : Obligations.HandshakeAckCompletesAndUnknownIsIgnored := by
  intro s k a i p hf
  have hexec : exec (.handshakeAck a i p) s = .next (acceptHandshakeAck a (quiet s)) :=
    congrArg _ (unlessFaulted_of_no_fault hf)
  have hform : acceptHandshakeAck a (quiet s) = if s.host.conn = .awaitingHandshake
      then becomeConnected false (ackField a (hostRefresh (quiet s))) else ackField a (hostRefresh (quiet s)) := by
    simp [acceptHandshakeAck]
  have hthen := refreshed_then (s.host.conn = .awaitingHandshake) false (s := quiet s) a hf
  rw [← hform] at hthen
  exact ⟨⟨_, hexec, hthen⟩, rfl⟩

/-! ## HANDSHAKE (R155) -/

theorem exec_handshake_debounced {s : State} {a i : Byte} {p : List Byte} (h : debounced s = true) :
    exec (.handshake a i p) s = .next (quiet s) := if_pos h

theorem exec_handshake_accepted {s : State} {a i : Byte} {p : List Byte} (hf : s.blk.fault = none)
    (h : debounced s = false) : exec (.handshake a i p) s = .next (acceptHandshake a (quiet s)) := by
  have hexec : exec (.handshake a i p) s = .next (unlessFaulted (acceptHandshake a) s) := if_neg (by simp [h])
  rw [hexec, unlessFaulted_of_no_fault hf]

theorem debounced_iff (s : State) :
    debounced s = true ↔ ∃ last, s.host.lastHs = some last ∧ s.host.now < last + s.par.handshakeSpacing := by
  unfold debounced
  cases s.host.lastHs <;> simp

/-- What an accepted handshake makes of a machine that has been reset where it had to be. -/
theorem acceptHandshake_eq (a : Byte) (s : State) :
    acceptHandshake a s =
      let s2 := issue opSetHsack (if s.host.conn = .connected then fullReset s else s)
      ackField a (hostExtend (hostRefresh (becomeConnected false
        { s2 with host := { s2.host with lastHs := some s2.host.now } }))) := rfl

theorem acceptHandshake_blk {s : State} (a : Byte) (hf : s.blk.fault = none) :
    (acceptHandshake a s).blk = if s.host.conn = .connected
      then { s.blk with q := [], pack := 0#8, nid := 1#8, phs := true }
      else { s.blk with q := ackedQueue a s.blk.q, phs := true } := by
  rw [acceptHandshake_eq]
  by_cases hc : s.host.conn = .connected
  · rw [if_pos hc, if_pos hc, ackField_blk] <;> simp [opClear_blk hf, opSetHsack_blk, hf]
  · rw [if_neg hc, if_neg hc, ackField_blk] <;> simp [opSetHsack_blk, hf]

theorem acceptHandshake_host {s : State} (a : Byte) :
    (acceptHandshake a s).host = { s.host with
      conn := .connected, sendTimer := true, hbTimer := true, everConnected := true
      lastId := if s.host.conn = .connected then none else s.host.lastId
      exhausted := if s.host.conn = .connected then none else s.host.exhausted
      lastHs := some s.host.now, lastRx := s.host.now
      deadline := limitAdd (limitAdd s.par.livenessMs s.host.now) s.par.livenessExt } := by
  rw [acceptHandshake_eq]
  by_cases hc : s.host.conn = .connected <;>
    simp [-issue_host, issue_host_of_onlyAnswers onlyAnswers_setHsack, hc]

theorem acceptHandshake_note_tx {s : State} (a : Byte) :
    (acceptHandshake a s).out.note = s.out.note ++ [.connectSucceeded false] ∧
      (acceptHandshake a s).out.tx = s.out.tx := by
  have hnote := issue_note_of_onlyAnswers onlyAnswers_setHsack
  have htx := issue_tx_of_onlyAnswers onlyAnswers_setHsack
  rw [acceptHandshake_eq]
  by_cases hc : s.host.conn = .connected <;> simp [-issue_out, -fullReset_out, hnote, htx, hc]

theorem acceptHandshake_par_inbox {s : State} (a : Byte) :
    (acceptHandshake a s).par = s.par ∧ (acceptHandshake a s).inbox = s.inbox := by
  rw [acceptHandshake_eq]
  by_cases hc : s.host.conn = .connected <;> simp [hc]

/-- Settles O57. -/
theorem handshakeIsDebouncedOrAccepted : Obligations.HandshakeIsDebouncedOrAccepted := by
  refine fun s a i p => ⟨fun last hlast hsoon => ?_, fun hf hspaced => ?_⟩
  · exact exec_handshake_debounced ((debounced_iff s).2 ⟨last, hlast, hsoon⟩)
  · have hno : debounced s = false := Bool.eq_false_iff.2 fun h => by
      obtain ⟨last, hlast, hsoon⟩ := (debounced_iff s).1 h
      exact absurd (hspaced last hlast) (Nat.not_le.2 hsoon)
    obtain ⟨hnote, htx⟩ := acceptHandshake_note_tx (s := quiet s) a
    obtain ⟨hpar, hin⟩ := acceptHandshake_par_inbox (s := quiet s) a
    exact ⟨_, exec_handshake_accepted hf hno, acceptHandshake_blk a hf, acceptHandshake_host a, hnote, htx, hpar, hin⟩

end Sys2Proof.Machine
end

section
/-! The operations and the emitted frames as operations of the block: what each can do, said once, and from it the access
table (10_state.md R32), the refusal while faulted (60_exceptions.md R225), the independence of the host (R233, R279) and
the message in flight (43_scheduler.md R189). -/

namespace Sys2Proof.Machine

/-! ## Instructions by kind -/

/-- The operation of the block that an operation or an emitted frame runs. -/
def blockOp : Instr → BlockOp
  | .reset => opReset
  | .xorsum l => opXorsum l
  | .verify l => opVerify l
  | .encode kind ack id p => opEncode kind ack id p
  | .decode l => opDecode l
  | .rxPush c => opRxPush c
  | .rxFlush => opRxFlush
  | .enqMsg p => opEnqMsg p
  | .enqHb => opEnqHb
  | .setHsack => opSetHsack
  | .setAck i => opSetAck i
  | .ackRx a => opAckRx a
  | .tick => opTick
  | .clear => opClear
  | .txData ack id p => opEmit Config.kindData ack id p
  | .txHeartbeat ack => opEmit Config.kindData ack 0#8 []
  | .txBareAck ack => opEmit Config.kindData ack 0#8 []
  | .txHandshakeAck => opEmit Config.kindHandshakeAck 0#8 0#8 []
  | .txHandshake => opEmit Config.kindHandshake 0#8 0#8 []
  | _ => fun _ b => (b, {})

/-- The operations and the emitted frames: the instructions that run one operation of the block. -/
def runsBlockOp (i : Instr) : Bool := isOperation i || isEmission i

theorem runsBlockOp_of_operation {i : Instr} (h : isOperation i = true) : runsBlockOp i = true := by
  simp [runsBlockOp, h]

theorem exec_eq_perform {i : Instr} (hi : runsBlockOp i = true) (s : State) : exec i s = perform (blockOp i) s := by
  cases i with
  | ctrl0 | data | handshake | handshakeAck | unknown => cases hi
  | rsmEnd | rsmSkip | rsmDiscard | rsmWait | rsmExtract => cases hi
  | tHsack | tCollapse | tHb | tMsg | tExhausted | tBareack | tIdle => cases hi
  | _ => rfl

theorem exec_blockOp {i : Instr} (hi : runsBlockOp i = true) (s : State) :
    exec i s = .next (afterOp s (blockOp i s.par s.blk).1 (blockOp i s.par s.blk).2) := by
  rw [exec_eq_perform hi, perform_eq]

/-- Every such instruction but RESET is tested for the fault first (R225, R228 e). -/
theorem blockOp_gated {i : Instr} (hi : runsBlockOp i = true) (hr : i ≠ .reset) : ∃ op, blockOp i = gated op := by
  cases i with
  | ctrl0 | data | handshake | handshakeAck | unknown => cases hi
  | rsmEnd | rsmSkip | rsmDiscard | rsmWait | rsmExtract => cases hi
  | tHsack | tCollapse | tHb | tMsg | tExhausted | tBareack | tIdle => cases hi
  | reset => exact absurd rfl hr
  | _ => exact ⟨_, rfl⟩

/-- The four kinds of instruction (R5). -/
theorem instr_kinds (i : Instr) : runsBlockOp i = true ∨ isForm i = true ∨ (∃ a, rsmInstr a = i) ∨ ∃ a, tickInstr a = i := by
  rw [← mem_rsmArms_iff, ← mem_tickArms_iff]
  cases i with
  | ctrl0 | data | handshake | handshakeAck | unknown => exact .inr (.inl rfl)
  | rsmEnd | rsmSkip | rsmDiscard | rsmWait | rsmExtract => exact .inr (.inr (.inl (by decide)))
  | tHsack | tCollapse | tHb | tMsg | tExhausted | tBareack | tIdle => exact .inr (.inr (.inr (by decide)))
  | _ => exact .inl rfl

/-! ## While FAULT = 1 (R225) -/

theorem perform_gated_faulted {op : BlockOp} {s : State} {c : Cause} (hf : s.blk.fault = some c) :
    perform (gated op) s = .next { s with out := { ret := [.rejected .faulted] } } := by
  rw [perform_eq, gated_of_fault hf, afterOp_of_nothing_presented s _ rfl rfl]
  rfl

theorem exec_blockOp_faulted {i : Instr} {s : State} {c : Cause} (hi : runsBlockOp i = true) (hr : i ≠ .reset)
    (hf : s.blk.fault = some c) : exec i s = .next { s with out := { ret := [.rejected .faulted] } } := by
  obtain ⟨op, hop⟩ := blockOp_gated hi hr
  rw [exec_eq_perform hi, hop, perform_gated_faulted hf]

theorem exec_form_faulted {i : Instr} {s : State} {c : Cause} (hi : isForm i = true) (hf : s.blk.fault = some c) :
    exec i s = .next (quiet s) := by
  cases i with
  | ctrl0 ack p => exact congrArg _ (unlessFaulted_of_fault hf)
  | data ack id p => exact congrArg _ (unlessFaulted_of_fault hf)
  | handshakeAck ack id p => exact congrArg _ (unlessFaulted_of_fault hf)
  | unknown kind ack id p => rfl
  | handshake ack id p =>
    have hexec : exec (.handshake ack id p) s =
        if debounced s then .next (quiet s) else .next (unlessFaulted (acceptHandshake ack) s) := rfl
    rw [hexec, unlessFaulted_of_fault hf, ite_self]
  | _ => cases hi

theorem exec_rsmInstr_faulted {s : State} {c : Cause} (a : RsmArm) (hf : s.blk.fault = some c) :
    exec (rsmInstr a) s = .next { s with out := { ret := [.rejected .faulted] } } := by
  rw [exec_rsmInstr, execRsm, faulted_eq_true hf, Bool.true_or, if_pos rfl, opRsm, perform_gated_faulted hf]

theorem exec_tickInstr_faulted {s : State} {c : Cause} (a : TickArm) (hf : s.blk.fault = some c) :
    exec (tickInstr a) s = .next { s with out := { ret := [.rejected .faulted] } } := by
  rw [exec_tickInstr, execTickArm, faulted_eq_true hf, Bool.true_or, if_pos rfl, perform_gated_faulted hf]

/-- Settles O48, one kind of instruction after the other. -/
theorem faultedBlockRefusesAllButReset : Obligations.FaultedBlockRefusesAllButReset := by
  refine fun s c i hf hr => ⟨fun hi => exec_blockOp_faulted (runsBlockOp_of_operation hi) hr hf, ?_⟩
  rcases instr_kinds i with hi | hi | ⟨a, rfl⟩ | ⟨a, rfl⟩
  · exact ⟨_, exec_blockOp_faulted hi hr hf, rfl⟩
  · exact ⟨_, exec_form_faulted hi hf, rfl⟩
  · exact ⟨_, exec_rsmInstr_faulted a hf, rfl⟩
  · exact ⟨_, exec_tickInstr_faulted a hf, rfl⟩

/-! ## Independence of the host (R233, R279) -/

/-- Settles O51: both runs apply one function to the same parameters and block. -/
theorem blockIgnoresTheHost : Obligations.BlockIgnoresTheHost := by
  intro s u i hi hblk hpar
  have hrun := runsBlockOp_of_operation hi
  refine ⟨_, _, exec_blockOp hrun s, exec_blockOp hrun u, ?_, ?_⟩ <;> simp [hblk, hpar]

/-! ## What each can do -/

/-- What an operation or an emitted frame can do: the block it leaves and what it puts on the ports. -/
inductive OpEffect (par : Params) (b : Block) : Instr → Block × Out → Prop
  | answers (i : Instr) (r : Result) : OpEffect par b i (b, answer r)
  | encodeTooLong (kind ack id : Byte) (p : List Byte) (hlong : 1014 < p.length) :
    OpEffect par b (.encode kind ack id p) (raiseFault .payloadTooLong b)
  | rxPush (c : List Byte) :
    OpEffect par b (.rxPush c) ({ b with rb := (reassemble (b.rb ++ c)).1 },
      { ret := [.packets (reassemble (b.rb ++ c)).2], rx := (reassemble (b.rb ++ c)).2 })
  | rxFlush : OpEffect par b .rxFlush ({ b with rb := [] }, answer .done)
  | enqMsg (p : List Byte) (hfits : p.length ≤ 1014) (hroom : par.qdepth ≠ .fin b.q.length) :
    OpEffect par b (.enqMsg p) ({ b with q := b.q ++ [.msg p 0#8 0] }, answer .ok)
  | enqHb (hroom : par.qdepth ≠ .fin b.q.length) :
    OpEffect par b .enqHb ({ b with q := b.q ++ [.hb] }, answer .ok)
  | setHsack : OpEffect par b .setHsack ({ b with phs := true }, answer .done)
  | setAck (i : Byte) : OpEffect par b (.setAck i) ({ b with pack := i }, answer .done)
  | ackRx (e : Entry) (rest : List Entry) (hq : b.q = e :: rest) :
    OpEffect par b (.ackRx (entryId e)) ({ b with q := rest }, answer .popped)
  | tick (r : Block × Out) (h : TickEffect par b r) : OpEffect par b .tick r
  | clear : OpEffect par b .clear ({ b with q := [], pack := 0#8, phs := false, nid := 1#8 }, answer .done)
  | reset : OpEffect par b .reset (Block.reset, answer .done)
  | emits (i : Instr) (f : List Byte) (hi : isEmission i = true) :
    OpEffect par b i (b, { ret := [.frame f], tx := [f] })
  | txDataTooLong (ack id : Byte) (p : List Byte) (hlong : 1014 < p.length) :
    OpEffect par b (.txData ack id p) (raiseFault .payloadTooLong b)

/-- An emitted frame whose payload fits goes out and leaves the block alone (R91). -/
theorem opEmit_fits {par : Params} {b : Block} {kind ack id : Byte} {p : List Byte} (hf : b.fault = none)
    (hp : p.length ≤ 1014) : opEmit kind ack id p par b =
      (b, { ret := [.frame (buildFrame kind ack id p)], tx := [buildFrame kind ack id p] }) := by
  rw [opEmit, gated_of_no_fault hf, transmit_fits hp]

theorem opEmit_no_payload {par : Params} {b : Block} {kind ack id : Byte} (hf : b.fault = none) :
    opEmit kind ack id [] par b =
      (b, { ret := [.frame (buildFrame kind ack id [])], tx := [buildFrame kind ack id []] }) :=
  opEmit_fits hf (Nat.zero_le 1014)

theorem blockOp_effect {i : Instr} (hi : runsBlockOp i = true) (par : Params) (b : Block) :
    OpEffect par b i (blockOp i par b) := by
  by_cases hr : i = .reset
  · subst hr
    exact .reset
  cases hf : b.fault with
  | some c =>
    obtain ⟨op, hop⟩ := blockOp_gated hi hr
    rw [hop, gated_of_fault hf]
    exact .answers i _
  | none =>
    cases i with
    | ctrl0 | data | handshake | handshakeAck | unknown => cases hi
    | rsmEnd | rsmSkip | rsmDiscard | rsmWait | rsmExtract => cases hi
    | tHsack | tCollapse | tHb | tMsg | tExhausted | tBareack | tIdle => cases hi
    | reset => exact absurd rfl hr
    | xorsum l =>
      rw [blockOp, opXorsum, gated_of_no_fault hf]
      exact .answers _ _
    | verify l =>
      rw [blockOp, opVerify, gated_of_no_fault hf]
      exact .answers _ _
    | decode l =>
      rw [blockOp, opDecode, gated_of_no_fault hf]
      exact .answers _ _
    | encode kind ack id p =>
      rw [blockOp, opEncode, gated_of_no_fault hf]
      rcases Nat.lt_or_ge 1014 p.length with hlong | hfits
      · rw [encodeFrame_oversize hlong]
        exact .encodeTooLong kind ack id p hlong
      · rw [encodeFrame_fits hfits]
        exact .answers _ _
    | rxPush c =>
      by_cases hc : ChunkFits par c
      · rw [blockOp, opRxPush_fits hf hc]
        exact .rxPush c
      · rw [blockOp, opRxPush, gated_of_no_fault hf, if_pos (by simpa using mt (chunkFits_iff par c).1 hc)]
        exact .answers _ _
    | rxFlush =>
      rw [blockOp, opRxFlush, gated_of_no_fault hf]
      exact .rxFlush
    | enqMsg p =>
      rw [blockOp, opEnqMsg, gated_of_no_fault hf]
      split
      · exact .answers _ _
      next hfits =>
        split
        · exact .answers _ _
        next hroom => exact .enqMsg p (Nat.not_lt.1 hfits) (mt (limitIs_iff _ _).2 hroom)
    | enqHb =>
      rw [blockOp, opEnqHb, gated_of_no_fault hf]
      split
      · exact .answers _ _
      next hroom => exact .enqHb (mt (limitIs_iff _ _).2 hroom)
    | setHsack =>
      rw [blockOp, opSetHsack, gated_of_no_fault hf]
      exact .setHsack
    | setAck i =>
      rw [blockOp, opSetAck, gated_of_no_fault hf]
      split
      · exact .answers _ _
      · exact .setAck i
    | ackRx a =>
      rw [blockOp, opAckRx, gated_of_no_fault hf]
      cases hq : b.q with
      | nil => exact .answers _ _
      | cons e rest =>
        dsimp only
        split
        next hm =>
          obtain ⟨-, rfl⟩ := hm
          exact .ackRx e rest hq
        · exact .answers _ _
    | tick => exact .tick _ (opTick_effect par hf)
    | clear =>
      rw [blockOp, opClear, gated_of_no_fault hf]
      exact .clear
    | txData ack id p =>
      rcases Nat.lt_or_ge 1014 p.length with hlong | hfits
      · rw [blockOp, opEmit, gated_of_no_fault hf, transmit_oversize hlong]
        exact .txDataTooLong ack id p hlong
      · rw [blockOp, opEmit_fits hf hfits]
        exact .emits _ _ rfl
    | txHeartbeat | txBareAck | txHandshakeAck | txHandshake =>
      rw [blockOp, opEmit_no_payload hf]
      exact .emits _ _ rfl

/-- Such an instruction completes, and is one of the effects. -/
theorem exec_effect {i : Instr} (hi : runsBlockOp i = true) (s : State) :
    ∃ r, OpEffect s.par s.blk i r ∧ exec i s = .next (afterOp s r.1 r.2) :=
  ⟨_, blockOp_effect hi s.par s.blk, exec_blockOp hi s⟩

/-! ## The access table (R32) -/

theorem afterOp_host_eq (s : State) (b : Block) (o : Out) : (afterOp s b o).host =
    { s.host with todo := s.host.todo ++ o.rx, exhausted := (afterOp s b o).host.exhausted } := by
  rw [afterOp_host, hear_eq]
  rfl

/-- Settles O50: each effect of an operation is read against its row of the table. -/
theorem accessTableHolds : Obligations.AccessTableHolds := by
  intro s i hi
  obtain ⟨r, heff, hexec⟩ := exec_effect (runsBlockOp_of_operation hi) s
  refine ⟨_, hexec, rfl, rfl, ⟨r.2.rx, _, afterOp_host_eq s r.1 r.2, ?_⟩, ?_⟩
  · cases heff with
    | rxPush c => exact ⟨fun h => absurd rfl (h c), fun _ => rfl⟩
    | tick r h => cases h <;> exact ⟨fun _ => rfl, fun h => absurd rfl h⟩
    | _ => exact ⟨fun _ => rfl, fun _ => rfl⟩
  · cases heff with
    | tick r h =>
      cases h with
      | tooLong k p i n rest hp hq hlong =>
        have hnot : ¬ PayloadsFit s.blk.q := fun hfit => Nat.not_le.2 hlong (payload_fits_of_mem hfit hq)
        simp [hnot]
      | _ => simp
    | txDataTooLong ack id p hlong => cases hi
    | _ => simp

end Sys2Proof.Machine
end

section
/-! A message in flight (43_scheduler.md R189, R194): no instruction but its acknowledgement and what clears the queue
takes it from the head. -/

namespace Sys2Proof.Machine

/-- A queue with the message still at its head, sent as often or more often, and nothing behind it lost or reordered. -/
def HeadKept (p : List Byte) (id : Byte) (n : Nat) (rest q : List Entry) : Prop :=
  ∃ n' more, n ≤ n' ∧ q = .msg p id n' :: (rest ++ more)

theorem replicate_hb_append_msg_eq {k : Nat} {p p' : List Byte} {i i' : Byte} {n n' : Nat} {r r' : List Entry}
    (h : Entry.msg p i n :: r = List.replicate k .hb ++ .msg p' i' n' :: r') : p = p' ∧ i = i' ∧ n = n' ∧ r = r' := by
  cases k with
  | zero => simpa [and_assoc] using h
  | succ k => simp [List.replicate_succ] at h

section
variable {p : List Byte} {id : Byte} {n : Nat} {rest : List Entry}

theorem headKept_self : HeadKept p id n rest (.msg p id n :: rest) := ⟨n, [], le_rfl, by rw [List.append_nil]⟩

theorem headKept_push (e : Entry) : HeadKept p id n rest (.msg p id n :: rest ++ [e]) := ⟨n, [e], le_rfl, rfl⟩

theorem ackedQueue_of_ne {a : Byte} (h : a ≠ id) :
    ackedQueue a (.msg p id n :: rest) = .msg p id n :: rest := by
  rw [ackedQueue, if_neg fun ⟨_, he⟩ => h he.symm]

/-- A TICK keeps the head, and its frame is the HandshakeAck or carries the message. -/
theorem headKept_of_tickEffect {par : Params} {b : Block} {r : Block × Out} (h : TickEffect par b r)
    (hq : b.q = .msg p id n :: rest) (hid : id ≠ 0#8) :
    HeadKept p id n rest r.1.q ∧ ∀ f ∈ r.2.tx, f = buildFrame 0x02#8 0#8 0#8 [] ∨
      encodeFrame 0x00#8 b.pack id p = some f := by
  cases h with
  | hsack hp => exact ⟨hq ▸ headKept_self, fun f hf => .inl (by simpa using hf)⟩
  | bareack hp hq' => simp [hq] at hq'
  | idle hp hq' => simp [hq] at hq'
  | hb k hp hq' => simp [hq, List.replicate_succ] at hq'
  | msg k p' i n' rest' hp hq' hm hfits =>
    rw [hq] at hq'
    obtain ⟨rfl, rfl, rfl, rfl⟩ := replicate_hb_append_msg_eq hq'
    rw [if_neg hid, encodeFrame_fits hfits]
    exact ⟨⟨n + 1, [], Nat.le_succ n, by rw [List.append_nil]⟩, fun f hf => .inr (by rw [List.mem_singleton.1 hf])⟩
  | tooLong => exact ⟨by rw [raiseFault_q, hq]; exact headKept_self, by simp [raiseFault]⟩
  | exhausted k p' i n' rest' hp hq' =>
    rw [hq] at hq'
    obtain ⟨rfl, rfl, rfl, rfl⟩ := replicate_hb_append_msg_eq hq'
    exact ⟨headKept_self, by simp⟩

/-- An operation or an emitted frame keeps the head, unless it may release it. -/
theorem headKept_of_opEffect {par : Params} {b : Block} {i : Instr} {r : Block × Out} (h : OpEffect par b i r)
    (hq : b.q = .msg p id n :: rest) (hid : id ≠ 0#8) (hi : mayRelease id i = false) :
    HeadKept p id n rest r.1.q := by
  cases h with
  | enqMsg => simpa only [hq] using headKept_push _
  | enqHb => simpa only [hq] using headKept_push _
  | ackRx e rest' hq' =>
    obtain ⟨rfl, rfl⟩ : Entry.msg p id n = e ∧ rest = rest' := by simpa using hq.symm.trans hq'
    simp [mayRelease, entryId] at hi
  | tick r h => exact (headKept_of_tickEffect h hq hid).1
  | clear | reset => cases hi
  | _ => exact hq ▸ headKept_self

/-- A received form leaves the queue alone, unless its ack is the head's id or it is a handshake. -/
theorem exec_form_keeps_queue {s t : State} {i : Instr} (hform : isForm i = true)
    (hq : s.blk.q = .msg p id n :: rest) (hi : mayRelease id i = false) (hexec : exec i s = .next t) :
    t.blk.q = s.blk.q := by
  cases hf : s.blk.fault with
  | some c =>
    obtain rfl : quiet s = t := by simpa [exec_form_faulted hform hf] using hexec
    rfl
  | none =>
    have hacked (a : Byte) (ha : (a == id) = false) : ackedQueue a s.blk.q = s.blk.q := by
      rw [hq]
      exact ackedQueue_of_ne (by simpa using ha)
    cases i with
    | ctrl0 a pl =>
      obtain ⟨u, hu, hblk, -⟩ := ctrl0RefreshesOrResumes s a pl hf
      obtain rfl : u = t := by simpa [hu] using hexec
      rw [hblk]
      exact hacked a hi
    | data a k pl =>
      obtain rfl : acceptData a k pl (quiet s) = t := by simpa [exec_data hf] using hexec
      rw [acceptData_q (s := quiet s) hf]
      exact hacked a hi
    | handshakeAck a k pl =>
      obtain ⟨⟨u, hu, hblk, -⟩, -⟩ := handshakeAckCompletesAndUnknownIsIgnored s 0#8 a k pl hf
      obtain rfl : u = t := by simpa [hu] using hexec
      rw [hblk]
      exact hacked a hi
    | unknown k a j pl =>
      obtain rfl : quiet s = t := by simpa using (show Host.Outcome.next (quiet s) = .next t from hexec)
      rfl
    | handshake => cases hi
    | _ => cases hform

/-- An arm of RX_PUSH does not touch the queue. -/
theorem exec_rsmInstr_keeps_queue {s t : State} {a : RsmArm} (hexec : exec (rsmInstr a) s = .next t) :
    t.blk.q = s.blk.q := by
  cases hf : s.blk.fault with
  | some c =>
    rw [exec_rsmInstr_faulted a hf] at hexec
    cases hexec
    rfl
  | none =>
    by_cases ha : rsmArm s.blk.rb = a
    · rw [exec_rsmInstr_selected hf ha] at hexec
      cases hexec
      rfl
    · simp [exec_rsmInstr_refused hf ha] at hexec

/-- An arm of TICK that completes with a message at the head is the whole TICK. -/
theorem exec_tickInstr_eq_tick {s t : State} {a : TickArm} (hf : s.blk.fault = none)
    (hq : s.blk.q = .msg p id n :: rest) (hexec : exec (tickInstr a) s = .next t) : exec .tick s = .next t := by
  have hc := not_collapsible_of_head_not_hb (b := s.blk) (by simp [headIsHb, hq])
  have ha : nextTickArm s.par s.blk = a := (exec_tickInstr_completes_iff hf).1 ⟨t, hexec⟩
  rw [nextTickArm, hc, if_neg (by decide)] at ha
  obtain ⟨harm, htick⟩ := exec_arm_and_tick hf hc ha rfl
  rw [htick, ← harm, hexec]

end

/-- Settles O47, one kind of instruction after the other. -/
theorem inFlightMessageStaysAtTheHead : Obligations.InFlightMessageStaysAtTheHead := by
  intro s t i p id n rest hq hid hi hexec
  have hop {j : Instr} (hj : runsBlockOp j = true) (hrel : mayRelease id j = false) (hjexec : exec j s = .next t) :
      HeadKept p id n rest t.blk.q := by
    obtain ⟨r, heff, hr⟩ := exec_effect hj s
    obtain rfl : afterOp s r.1 r.2 = t := by simpa [hr] using hjexec
    exact headKept_of_opEffect heff hq hid hrel
  refine ⟨?_, ?_⟩
  · rcases instr_kinds i with hrun | hform | ⟨a, rfl⟩ | ⟨a, rfl⟩
    · exact hop hrun hi hexec
    · rw [exec_form_keeps_queue hform hq hi hexec, hq]
      exact headKept_self
    · rw [exec_rsmInstr_keeps_queue hexec, hq]
      exact headKept_self
    · cases hf : s.blk.fault with
      | some c =>
        rw [exec_tickInstr_faulted a hf] at hexec
        cases hexec
        exact hq ▸ headKept_self
      | none => exact hop (j := .tick) rfl rfl (exec_tickInstr_eq_tick hf hq hexec)
  · rintro rfl f hftx
    rw [← buildFrame_handshakeAck]
    rw [exec_tick_afterOp] at hexec
    cases hexec
    cases hf : s.blk.fault with
    | some c => simp [opTick, gated_of_fault hf] at hftx
    | none => exact (headKept_of_tickEffect (opTick_effect s.par hf) hq hid).2 f hftx

end Sys2Proof.Machine
end

section
/-! The step (20_memory.md R50-R61): what it serves, what it answers, and that it does not read the ports' record. -/

namespace Sys2Proof.Machine

/-! ## Emitted frames (R91) -/

theorem exec_txData {s : State} (a i : Byte) {p : List Byte} (hf : s.blk.fault = none) (hp : p.length ≤ 1014) :
    exec (.txData a i p) s =
      .next { s with out := { ret := [.frame (buildFrame 0x00#8 a i p)], tx := [buildFrame 0x00#8 a i p] } } :=
  perform_gated hf (transmit_fits hp) rfl rfl

/-- A frame with no payload goes out and leaves the block alone. -/
theorem perform_emit_no_payload {s : State} (kind ack id : Byte) (hf : s.blk.fault = none) :
    perform (opEmit kind ack id []) s =
      .next { s with out := { ret := [.frame (buildFrame kind ack id [])], tx := [buildFrame kind ack id []] } } :=
  perform_gated hf (transmit_no_payload _ _ _ _ _ _) rfl rfl

/-- Settles O15: each row's frame is ENCODE's of the row's fields. -/
theorem emittedFramesGoOut : Obligations.EmittedFramesGoOut := by
  intro s hf
  refine ⟨fun a i p hp => ⟨_, encodeFrame_fits hp, exec_txData a i hf hp⟩, fun a => ?_, fun a => ?_, ?_, ?_⟩
  · rw [← buildFrame_ack_alone]
    exact perform_emit_no_payload 0x00#8 a 0#8 hf
  · rw [← buildFrame_ack_alone]
    exact perform_emit_no_payload 0x00#8 a 0#8 hf
  · rw [← buildFrame_handshakeAck]
    exact perform_emit_no_payload 0x02#8 0#8 0#8 hf
  · rw [← buildFrame_handshake]
    exact perform_emit_no_payload 0x01#8 0#8 0#8 hf

/-! ## What a step serves -/

theorem fetch_cons {s : State} {x : Input} {rest : List Input} (h : s.inbox = x :: rest) :
    fetch s = fetchInput x { s with inbox := rest } := by
  rw [fetch, h]

theorem fetch_nil {s : State} (h : s.inbox = []) : fetch s = .idle s := by simp [fetch, h]

theorem step_idle {s t : State} (h : fetch s = .idle t) : step s = .next (quiet t) := by rw [step, h]
theorem step_run {s t : State} {i : Instr} (h : fetch s = .run i t) : step s = exec i t := by rw [step, h]
theorem step_badOperation {s t : State} (h : fetch s = .badOperation t) : step s = .next (rejectOperation t) := by
  rw [step, h]
theorem step_malformed {s : State} {f : Fault} (h : fetch s = .malformed f) : step s = .fault f := by rw [step, h]
theorem step_host {s t : State} {e : HostEvent} (h : fetch s = .host e t) : step s = .next (hostEvent e t) := by
  rw [step, h]

theorem hostOffers_run {may : Bool} {s : State} (i : Instr) (hm : may = true) (hf : s.blk.fault = none) :
    hostOffers may i s = .run i s := by
  simp [hostOffers, hm, faulted_eq_false hf]

theorem hostOffers_idle {may : Bool} {s : State} (i : Instr) (h : may = false ∨ faulted s.blk = true) :
    hostOffers may i s = .idle s := by
  rcases h with h | h <;> simp [hostOffers, h]

/-- Settles O13, input by input. -/
theorem stepRunsTheInstruction : Obligations.StepRunsTheInstruction := by
  intro s rest
  refine ⟨fun bytes i hin hdec => ?_, fun c hin => step_run (fetch_cons hin),
    fun hf => ⟨fun hin ht => ?_, fun hin ht => ?_, fun p ps hin htodo => ?_, fun m hin => ?_, fun hin => ?_⟩,
    fun h => ?_, fun x hin hf h => ?_⟩
  · exact step_run ((fetch_cons hin).trans (by simp [fetchInput, fetchCommand, hdec]))
  · exact step_run ((fetch_cons hin).trans (hostOffers_run .tick ht hf))
  · exact step_run ((fetch_cons hin).trans (hostOffers_run .enqHb ht hf))
  · exact step_run ((fetch_cons hin).trans (by simp [fetchInput, faulted_eq_false hf, fetchPacket, htodo]))
  · exact step_run ((fetch_cons hin).trans (hostOffers_run _ rfl hf))
  · exact step_run ((fetch_cons hin).trans (hostOffers_run _ rfl hf))
  · rcases h with ⟨hin, ht⟩ | ⟨hin, ht⟩ | ⟨hin, htodo⟩ | ⟨hin, rfl⟩
    · exact step_idle ((fetch_cons hin).trans (hostOffers_idle _ (.inl ht)))
    · exact step_idle ((fetch_cons hin).trans (hostOffers_idle _ (.inl ht)))
    · have hidle : fetchInput .take { s with inbox := rest } = .idle { s with inbox := rest } := by
        simp [fetchInput, fetchPacket, htodo]
      exact step_idle ((fetch_cons hin).trans hidle)
    · rw [step_idle (fetch_nil hin), ← hin]
      rfl
  · obtain ⟨c, hc⟩ := Option.ne_none_iff_exists'.1 hf
    have hfaulted := faulted_eq_true hc
    rcases h with h | ⟨m, rfl⟩
    · simp only [List.mem_cons, List.not_mem_nil, or_false] at h
      rcases h with rfl | rfl | rfl | rfl | rfl
      · exact step_idle ((fetch_cons hin).trans (hostOffers_idle _ (.inr hfaulted)))
      · exact step_idle ((fetch_cons hin).trans (hostOffers_idle _ (.inr hfaulted)))
      · exact step_idle ((fetch_cons hin).trans (if_pos hfaulted))
      · exact step_idle ((fetch_cons hin).trans (hostOffers_idle _ (.inr hfaulted)))
      · rw [step_host (fetch_cons hin)]
        exact congrArg _ (unlessFaulted_of_fault hc)
    · exact step_idle ((fetch_cons hin).trans (hostOffers_idle _ (.inr hfaulted)))

/-- The bytes that are no instruction and no operation code, with the fault each raises (log 7). -/
inductive Malformed (bytes : List Byte) : Fault → Prop
  | empty (h : decodeCommand bytes = .error .commandEmpty) : Malformed bytes .commandEmpty
  | truncated (h : decodeCommand bytes = .error .operandsMissing) : Malformed bytes .commandTruncated
  | overlong (h : decodeCommand bytes = .error .operandsLeftOver) : Malformed bytes .commandOverlong

/-- What a step can find to serve: an instruction it runs is an operation, the handshake the host writes, or the form of the
oldest packet; the input it came from is gone, and nothing else has changed. -/
inductive Served (s : State) (rest : List Input) : Fetched → Prop
  | idle : Served s rest (.idle { s with inbox := rest })
  | command (bytes : List Byte) (i : Instr) (hin : s.inbox = .command bytes :: rest) (hdec : decodeCommand bytes = .ok i) :
    Served s rest (.run i { s with inbox := rest })
  | operation (i : Instr) (hi : isOperation i = true) (hne : ∀ kind ack id p, i ≠ .encode kind ack id p) :
    Served s rest (.run i { s with inbox := rest })
  | handshake : Served s rest (.run .txHandshake { s with inbox := rest })
  | form (p : Packet) (ps : List Packet) (htodo : s.host.todo = p :: ps) :
    Served s rest (.run (formOf p) { s with inbox := rest, host := { s.host with todo := ps } })
  | badOperation : Served s rest (.badOperation { s with inbox := rest })
  | malformed (bytes : List Byte) (f : Fault) (hin : s.inbox = .command bytes :: rest) (hm : Malformed bytes f) :
    Served s rest (.malformed f)
  | host (e : HostEvent) (hin : s.inbox = .host e :: rest) : Served s rest (.host e { s with inbox := rest })

/-- No command is rejected as a frame. -/
theorem decodeCommand_ne_badFrame (bytes : List Byte) (c : Cause) : decodeCommand bytes ≠ .error (.badFrame c) := by
  rcases bytes with _ | ⟨b, operands⟩
  · simp [decodeCommand, decodeOp]
  · cases ho : opOfByte b with
    | none => simp [decodeCommand, decodeOp, ho]
    | some o => rcases hr : operandsOf o operands with _ | ⟨i, _ | ⟨x, xs⟩⟩ <;> simp [decodeCommand, decodeOp, ho, hr]

theorem fetchCommand_served {s : State} {bytes : List Byte} {rest : List Input} (hin : s.inbox = .command bytes :: rest) :
    Served s rest (fetchCommand bytes { s with inbox := rest }) := by
  rw [fetchCommand]
  rcases hdec : decodeCommand bytes with (_ | code | _ | _ | c) | i
  · exact .malformed bytes _ hin (.empty hdec)
  · exact .badOperation
  · exact .malformed bytes _ hin (.truncated hdec)
  · exact .malformed bytes _ hin (.overlong hdec)
  · exact absurd hdec (decodeCommand_ne_badFrame bytes c)
  · exact .command bytes i hin hdec

/-- What the host offers is served, or nothing is. -/
theorem hostOffers_served {s : State} {rest : List Input} (may : Bool) {i : Instr}
    (h : Served s rest (.run i { s with inbox := rest })) : Served s rest (hostOffers may i { s with inbox := rest }) := by
  rcases hostOffers_cases may i { s with inbox := rest } with ⟨-, -, heq⟩ | ⟨-, heq⟩
  · rw [heq]
    exact h
  · rw [heq]
    exact .idle

theorem fetch_served (s : State) : ∃ rest, Served s rest (fetch s) := by
  rcases hin : s.inbox with _ | ⟨x, rest⟩
  · refine ⟨[], ?_⟩
    rw [fetch_nil hin, ← hin]
    exact .idle
  · refine ⟨rest, ?_⟩
    rw [fetch_cons hin]
    cases x with
    | command bytes => exact fetchCommand_served hin
    | chunk bytes => exact .operation _ rfl nofun
    | sendTimer => exact hostOffers_served _ (.operation _ rfl nofun)
    | hbTimer => exact hostOffers_served _ (.operation _ rfl nofun)
    | sendMessage bytes => exact hostOffers_served _ (.operation _ rfl nofun)
    | sendHandshake => exact hostOffers_served _ .handshake
    | host e => exact .host e hin
    | take =>
      rw [fetchInput]
      split
      · exact .idle
      · rw [fetchPacket]
        split
        · exact .idle
        next p ps htodo => exact .form p ps htodo

/-- A received form completes. -/
theorem exec_form_completes {i : Instr} (hi : isForm i = true) (s : State) : ∃ t, exec i s = .next t := by
  cases i with
  | ctrl0 | data | handshakeAck | unknown => exact ⟨_, rfl⟩
  | handshake a k p =>
    cases hd : debounced s with
    | true => exact ⟨_, exec_handshake_debounced hd⟩
    | false => exact ⟨_, if_neg (by simp [hd])⟩
  | _ => cases hi

theorem exec_blockOp_completes {i : Instr} (hi : runsBlockOp i = true) (s : State) : ∃ t, exec i s = .next t :=
  ⟨_, exec_blockOp hi s⟩

/-- Settles O14: whatever else is served completes. -/
theorem stepStopsOnlyOnMalformedCommands : Obligations.StepStopsOnlyOnMalformedCommands := by
  refine ⟨fun s => ?_, fun s bytes rest hin => ⟨fun h => ?_, fun h => ?_, fun h => ?_⟩⟩
  · obtain ⟨rest, hserved⟩ := fetch_served s
    cases hfetch : fetch s with
    | idle t => exact .inl ⟨_, step_idle hfetch⟩
    | badOperation t => exact .inl ⟨_, step_badOperation hfetch⟩
    | host e t => exact .inl ⟨_, step_host hfetch⟩
    | run i t =>
      rw [step_run hfetch]
      rw [hfetch] at hserved
      cases hserved with
      | command bytes i hin hdec =>
        exact .inl (exec_blockOp_completes (runsBlockOp_of_operation (isOperation_of_decodeCommand hdec)) _)
      | operation i hi => exact .inl (exec_blockOp_completes (runsBlockOp_of_operation hi) _)
      | handshake => exact .inl (exec_blockOp_completes rfl _)
      | form p ps htodo => exact .inl (exec_form_completes (isForm_formOf p) _)
    | malformed f =>
      rw [hfetch] at hserved
      cases hserved with
      | malformed bytes f hin hm =>
        refine .inr ⟨bytes, rest, hin, ?_⟩
        cases hm with
        | empty h => exact .inl h
        | truncated h => exact .inr (.inl h)
        | overlong h => exact .inr (.inr h)
  all_goals exact step_malformed ((fetch_cons hin).trans (by simp [fetchInput, fetchCommand, h]))

/-- What a step that completes has done: nothing but taking an input and answering; an operation; the handshake the host
writes; the form of the oldest packet; a host event. -/
inductive StepCase (s : State) (rest : List Input) : State → Prop
  | nothing (o : Out) : StepCase s rest { s with inbox := rest, out := o }
  | command (bytes : List Byte) (i : Instr) (t : State) (hin : s.inbox = .command bytes :: rest)
      (hdec : decodeCommand bytes = .ok i) (hexec : exec i { s with inbox := rest } = .next t) : StepCase s rest t
  | operation (i : Instr) (t : State) (hi : isOperation i = true) (hne : ∀ kind ack id p, i ≠ .encode kind ack id p)
      (hexec : exec i { s with inbox := rest } = .next t) : StepCase s rest t
  | handshake (t : State) (hexec : exec .txHandshake { s with inbox := rest } = .next t) : StepCase s rest t
  | form (p : Packet) (ps : List Packet) (t : State) (htodo : s.host.todo = p :: ps)
      (hexec : exec (formOf p) { s with inbox := rest, host := { s.host with todo := ps } } = .next t) :
    StepCase s rest t
  | host (e : HostEvent) : StepCase s rest (hostEvent e { s with inbox := rest })

theorem step_cases {s t : State} (h : step s = .next t) : ∃ rest, StepCase s rest t := by
  obtain ⟨rest, hserved⟩ := fetch_served s
  refine ⟨rest, ?_⟩
  generalize hfetch : fetch s = fetched at hserved
  cases hserved with
  | idle =>
    rw [step_idle hfetch] at h
    cases h
    exact .nothing {}
  | command bytes i hin hdec => exact .command bytes i t hin hdec (step_run hfetch ▸ h)
  | operation i hi hne => exact .operation i t hi hne (step_run hfetch ▸ h)
  | handshake => exact .handshake t (step_run hfetch ▸ h)
  | form p ps htodo => exact .form p ps t htodo (step_run hfetch ▸ h)
  | badOperation =>
    rw [step_badOperation hfetch] at h
    cases h
    exact .nothing _
  | malformed bytes f hin hm =>
    rw [step_malformed hfetch] at h
    cases h
  | host e hin =>
    rw [step_host hfetch] at h
    cases h
    exact .host e

/-! ## The record of the ports (log 2) -/

theorem exec_out (i : Instr) (s : State) (o : Out) : exec i { s with out := o } = exec i s := by
  cases i <;> rfl

/-- What is served, with another record in its state. -/
def Fetched.withOut (o : Out) : Fetched → Fetched
  | .idle s => .idle { s with out := o }
  | .run i s => .run i { s with out := o }
  | .badOperation s => .badOperation { s with out := o }
  | .malformed f => .malformed f
  | .host e s => .host e { s with out := o }

theorem hostOffers_out (may : Bool) (i : Instr) (s : State) (o : Out) :
    hostOffers may i { s with out := o } = (hostOffers may i s).withOut o := by
  rw [hostOffers, hostOffers, apply_ite (Fetched.withOut o)]
  rfl

theorem fetchInput_out (x : Input) (s : State) (o : Out) :
    fetchInput x { s with out := o } = (fetchInput x s).withOut o := by
  cases x with
  | command bytes =>
    rw [fetchInput, fetchInput, fetchCommand, fetchCommand]
    rcases decodeCommand bytes with (_ | _ | _ | _ | _) | _ <;> rfl
  | chunk | host => rfl
  | sendTimer | hbTimer | sendMessage | sendHandshake => exact hostOffers_out _ _ s o
  | take =>
    have hpacket : fetchPacket { s with out := o } = (fetchPacket s).withOut o := by
      rw [fetchPacket, fetchPacket]
      rcases s.host.todo with _ | ⟨p, ps⟩ <;> rfl
    rw [fetchInput, fetchInput, hpacket, apply_ite (Fetched.withOut o)]
    rfl

theorem fetch_out (s : State) (o : Out) : fetch { s with out := o } = (fetch s).withOut o := by
  by_cases hin : s.inbox = []
  · rw [fetch_nil hin, fetch_nil (s := { s with out := o }) hin]
    rfl
  · obtain ⟨x, rest, hcons⟩ := List.exists_cons_of_ne_nil hin
    rw [fetch_cons hcons, fetch_cons (s := { s with out := o }) hcons]
    exact fetchInput_out x { s with inbox := rest } o

theorem hostEvent_out (e : HostEvent) (s : State) (o : Out) : hostEvent e { s with out := o } = hostEvent e s := by
  cases e <;> rfl

theorem step_out (s : State) (o : Out) : step { s with out := o } = step s := by
  have hfetch := fetch_out s o
  cases h : fetch s with
  | idle t =>
    rw [h] at hfetch
    rw [step_idle h, step_idle hfetch]
    rfl
  | run i t =>
    rw [h] at hfetch
    rw [step_run h, step_run hfetch, exec_out]
  | badOperation t =>
    rw [h] at hfetch
    rw [step_badOperation h, step_badOperation hfetch]
    rfl
  | malformed f =>
    rw [h] at hfetch
    rw [step_malformed h, step_malformed hfetch]
  | host e t =>
    rw [h] at hfetch
    rw [step_host h, step_host hfetch, hostEvent_out]

/-- Settles O52. -/
theorem portRecordIsNotRead : Obligations.PortRecordIsNotRead :=
  fun s o => ⟨fun i => exec_out i s o, fun _ h => (step_out s o).trans h⟩

end Sys2Proof.Machine
end

section
/-! The beginning and the end of a connection (42_connection_host.md R151, R152, R161-R169): what a disconnect, for whichever
cause, and `connect()` leave of the machine. -/

namespace Sys2Proof.Machine

/-! ## A disconnect (R152, R162, R163) -/

/-- CLEAR, also on a faulted block, which refuses it. -/
theorem opClear_blk_cases (par : Params) (b : Block) : (opClear par b).1 =
    if b.fault ≠ none then b else { b with q := [], pack := 0#8, phs := false, nid := 1#8 } := by
  cases hf : b.fault with
  | some c => simp [opClear, gated_of_fault hf]
  | none => simp [opClear_blk hf, hf]

theorem hostDisconnect_of_disconnected {s : State} (why : Why) (h : s.host.conn = .disconnected) :
    hostDisconnect why s = s := if_pos h

/-- What is left where a connection, or the attempt at one, ends. -/
theorem hostDisconnect_ends {s : State} (why : Why) (h : s.host.conn ≠ .disconnected) :
    let t := hostDisconnect why s
    t.par = s.par ∧ t.inbox = s.inbox ∧
      t.blk = (if s.blk.fault ≠ none then s.blk
        else { s.blk with q := [], pack := 0#8, phs := false, nid := 1#8 }) ∧
      t.host = { s.host with
        conn := .disconnected, lastId := none, sendTimer := false, hbTimer := false, exhausted := none
        deadline := .inf, everConnected := false } ∧
      t.out.note = s.out.note ++ [if s.host.everConnected then .disconnected else .connectFailed why] := by
  have heq : hostDisconnect why s = notify (if s.host.everConnected then .disconnected else .connectFailed why)
      { fullReset s with host :=
        { (fullReset s).host with conn := .disconnected, deadline := .inf, everConnected := false } } := if_neg h
  dsimp only
  rw [heq, ← opClear_blk_cases s.par s.blk]
  simp [-fullReset_out]

/-! ## Silence past the deadline (R161) -/

theorem livenessExpired_iff (par : Params) (h : HostState) :
    livenessExpired par h = true ↔ par.direct = false ∧ ∃ d, h.deadline = .fin d ∧ d < h.now := by
  unfold livenessExpired
  cases h.deadline <;> simp

/-- The host's clock moved on. -/
def clockMoved (ms : Nat) (s : State) : State := { s with host := { s.host with now := s.host.now + ms } }

theorem hostElapse_expired {s : State} {ms d : Nat} (hd : s.par.direct = false) (hdl : s.host.deadline = .fin d)
    (hlate : d < s.host.now + ms) : hostElapse ms s = hostDisconnect .liveness (clockMoved ms s) :=
  if_pos ((livenessExpired_iff s.par (clockMoved ms s).host).2 ⟨hd, d, hdl, hlate⟩)

theorem hostElapse_in_time {s : State} {ms : Nat}
    (h : s.par.direct = true ∨ s.host.conn = .disconnected ∨ s.host.deadline = .inf ∨
      ∃ d, s.host.deadline = .fin d ∧ s.host.now + ms ≤ d) : hostElapse ms s = clockMoved ms s := by
  have hlive : hostElapse ms s = if livenessExpired s.par (clockMoved ms s).host
      then hostDisconnect .liveness (clockMoved ms s) else clockMoved ms s := rfl
  rw [hlive]
  rcases Bool.eq_false_or_eq_true (livenessExpired s.par (clockMoved ms s).host) with hexp | hexp
  · obtain ⟨hdir, d, hdl, hlate⟩ := (livenessExpired_iff _ _).1 hexp
    have hconn : s.host.conn = .disconnected := by
      rcases h with h | h | h | ⟨d', h, hle⟩
      · simp [hdir] at h
      · exact h
      · simp [show s.host.deadline = .fin d from hdl] at h
      · obtain rfl : d = d' := by simpa [show s.host.deadline = .fin d from hdl] using h
        exact absurd hlate (Nat.not_lt.2 hle)
    rw [if_pos hexp, hostDisconnect_of_disconnected _ (show (clockMoved ms s).host.conn = _ from hconn)]
  · rw [if_neg (by simp [hexp])]

/-! ## Stale timer expiries (R62) -/

theorem step_stopped_sendTimer {s : State} {rest : List Input} (hin : s.inbox = .sendTimer :: rest)
    (ht : s.host.sendTimer = false) : step s = .next { s with inbox := rest, out := {} } := by
  obtain ⟨-, -, -, hnothing, -⟩ := stepRunsTheInstruction s rest
  exact hnothing (.inl ⟨hin, ht⟩)

theorem step_stopped_hbTimer {s : State} {rest : List Input} (hin : s.inbox = .hbTimer :: rest)
    (ht : s.host.hbTimer = false) : step s = .next { s with inbox := rest, out := {} } := by
  obtain ⟨-, -, -, hnothing, -⟩ := stepRunsTheInstruction s rest
  exact hnothing (.inr (.inl ⟨hin, ht⟩))

/-- The causes of a disconnect, as the host event that brings each about (R161, R162, R165, R167). -/
abbrev DisconnectCause (s : State) (e : HostEvent) (why : Why) (ms : Nat) : Prop :=
  (e = .disconnect ∧ why = .request ∧ ms = 0) ∨ (e = .ioError ∧ why = .ioError ∧ ms = 0) ∨
    (e = .answerExhausted ∧ why = .exhausted ∧ ms = 0 ∧ s.host.exhausted ≠ none) ∨
    (e = .elapse ms ∧ why = .liveness ∧ s.par.direct = false ∧
      ∃ d, s.host.deadline = .fin d ∧ d < s.host.now + ms)

/-- Each cause is one disconnect, of a machine whose clock may have moved on and whose event may be answered. -/
theorem hostEvent_of_cause {s : State} {e : HostEvent} {why : Why} {ms : Nat} (h : DisconnectCause s e why ms) :
    ∃ ex, hostEvent e s =
        hostDisconnect why { quiet s with host := { s.host with now := s.host.now + ms, exhausted := ex } } ∧
      (e = .answerExhausted → ex = none) ∧ (e ≠ .answerExhausted → ex = s.host.exhausted) := by
  rcases h with ⟨rfl, rfl, rfl⟩ | ⟨rfl, rfl, rfl⟩ | ⟨rfl, rfl, rfl, hex⟩ | ⟨rfl, rfl, hd, d, hdl, hlate⟩
  · exact ⟨_, rfl, nofun, fun _ => rfl⟩
  · exact ⟨_, rfl, nofun, fun _ => rfl⟩
  · obtain ⟨id, hid⟩ := Option.ne_none_iff_exists'.1 hex
    have hans : hostEvent .answerExhausted s =
        hostDisconnect .exhausted { quiet s with host := { s.host with exhausted := none } } := by
      simp [hostEvent, hostAnswer, hid]
    exact ⟨none, hans, fun _ => rfl, fun h => absurd rfl h⟩
  · exact ⟨_, hostElapse_expired (s := quiet s) hd hdl hlate, nofun, fun _ => rfl⟩

/-- Two expiries of stopped timers change nothing but the inputs and the record. -/
theorem two_stale_expiries {t : State} {rest : List Input} (hin : t.inbox = .sendTimer :: .hbTimer :: rest)
    (hs : t.host.sendTimer = false) (hh : t.host.hbTimer = false) :
    ∃ u v, step t = .next u ∧ step u = .next v ∧ v.blk = t.blk ∧ v.host = t.host ∧ v.out = {} ∧ v.inbox = rest :=
  ⟨_, _, step_stopped_sendTimer hin hs, step_stopped_hbTimer (by rfl) hh, rfl, rfl, rfl, rfl⟩

/-- Settles O59: after the disconnect both timers are stopped, so their expiries find nothing to do. -/
theorem noStaleTickAfterDisconnect : Obligations.NoStaleTickAfterDisconnect := by
  refine ⟨fun s e why ms rest hinv hin hcause => ?_, fun s rest hin hex => ?_⟩
  · obtain ⟨hsend, hhb, -, -⟩ := hinv
    obtain ⟨ex, hevent, hans, hother⟩ :=
      hostEvent_of_cause (s := { s with inbox := .sendTimer :: .hbTimer :: rest }) hcause
    have hstep := step_host (fetch_cons hin)
    rw [hevent] at hstep
    by_cases hconn : s.host.conn = .disconnected
    · rw [hostDisconnect_of_disconnected why (by exact hconn)] at hstep
      have hs : s.host.sendTimer = false := by simp [Bool.eq_false_iff, hsend, hconn]
      have hh : s.host.hbTimer = false := by simp [Bool.eq_false_iff, hhb, hconn]
      obtain ⟨u, v, hu, hv, hstale⟩ := two_stale_expiries (rest := rest) (t := { quiet s with
        inbox := .sendTimer :: .hbTimer :: rest
        host := { s.host with now := s.host.now + ms, exhausted := ex } }) rfl hs hh
      exact ⟨_, u, v, hstep, hu, hv, by simp [hconn], hconn, hs, hh, rfl, hans,
        fun _ => ⟨rfl, rfl, hother⟩, fun h => absurd hconn h, hstale⟩
    · obtain ⟨-, hinbox, hblk, hhost, hnote⟩ := hostDisconnect_ends why
        (s := { quiet { s with inbox := .sendTimer :: .hbTimer :: rest } with
          host := { s.host with now := s.host.now + ms, exhausted := ex } }) hconn
      generalize hostDisconnect why _ = t at hstep hinbox hblk hhost hnote
      obtain ⟨u, v, hu, hv, hstale⟩ := two_stale_expiries hinbox (by rw [hhost]) (by rw [hhost])
      refine ⟨t, u, v, hstep, hu, hv, ?_, ?_⟩
      · rw [hblk]
        simp only [hconn, false_or]
        rfl
      · rw [hhost]
        rw [hhost] at hstale
        exact ⟨rfl, rfl, rfl, rfl, fun _ => rfl, fun h => absurd h hconn, fun _ => ⟨rfl, rfl, hnote⟩, hstale⟩
  · rw [step_host (fetch_cons hin)]
    simp [hostEvent, hostAnswer, hex, quiet]

/-! ## `connect()` (R169, R264) -/

/-- The machine once `connect()` has cleared the block and its buffer and forgotten the last connection. -/
def connectCleared (s : State) : State :=
  let s1 := hostRefresh (fullReset (issue opRxFlush (notify .connectStarted s)))
  { s1 with host := { s1.host with everConnected := false } }

theorem connectCleared_par_inbox (s : State) : (connectCleared s).par = s.par ∧ (connectCleared s).inbox = s.inbox := by
  simp [connectCleared]

theorem connectCleared_blk {s : State} (hf : s.blk.fault = none) : (connectCleared s).blk = Block.reset := by
  simp [connectCleared, opRxFlush_blk, opClear_blk, hf, Block.reset]

theorem connectCleared_host (s : State) : (connectCleared s).host = { s.host with
    lastRx := s.host.now, deadline := limitAdd s.par.livenessMs s.host.now, lastId := none
    sendTimer := false, hbTimer := false, everConnected := false, exhausted := none } := by
  simp [connectCleared, -issue_host, issue_host_of_onlyAnswers onlyAnswers_rxFlush]

theorem connectCleared_note_tx (s : State) : (connectCleared s).out.note = s.out.note ++ [.connectStarted] ∧
    (connectCleared s).out.tx = s.out.tx := by
  have hnote := issue_note_of_onlyAnswers onlyAnswers_rxFlush
  have htx := issue_tx_of_onlyAnswers onlyAnswers_rxFlush
  simp [connectCleared, -issue_out, -fullReset_out, hnote, htx]

theorem hostConnect_direct {s : State} (h : s.par.direct = true) :
    hostConnect s = becomeConnected false (connectCleared s) :=
  if_pos (by rw [← h]; exact congrArg _ (connectCleared_par_inbox s).1)

theorem hostConnect_handshake {s : State} (h : s.par.direct = false) :
    hostConnect s =
      let s3 := issue (opEmit Config.kindHandshake 0#8 0#8 []) (connectCleared s)
      { s3 with host := { s3.host with conn := .awaitingHandshake } } :=
  if_neg (by rw [Bool.not_eq_true, ← h]; exact congrArg _ (connectCleared_par_inbox s).1)

/-- Settles O60. -/
theorem connectAndSilenceActOnTheConnection : Obligations.ConnectAndSilenceActOnTheConnection := by
  refine fun s rest => ⟨fun hin hf => ?_, fun ms hin => ⟨fun h => ?_, fun d hd hconn hdl hlate => ?_⟩, fun hin => ?_⟩
  · have hstep : step s = .next (hostConnect (quiet { s with inbox := rest })) :=
      (step_host (fetch_cons hin)).trans (congrArg _ (unlessFaulted_of_no_fault hf))
    obtain ⟨hpar, hinbox⟩ := connectCleared_par_inbox (quiet { s with inbox := rest })
    obtain ⟨hnote, htx⟩ := connectCleared_note_tx (quiet { s with inbox := rest })
    have hblk := connectCleared_blk (s := quiet { s with inbox := rest }) hf
    have hhost := connectCleared_host (quiet { s with inbox := rest })
    refine ⟨_, hstep, ?_⟩
    cases hd : s.par.direct with
    | true =>
      rw [hostConnect_direct (by exact hd)]
      simp [hpar, hinbox, hblk, hhost, hnote, htx, Block.reset]
    | false =>
      rw [hostConnect_handshake (by exact hd)]
      have hemit := opEmit_no_payload (par := s.par) (b := Block.reset) (kind := 0x01#8) (ack := 0#8)
        (id := 0#8) rfl
      simp [hpar, hinbox, hblk, hhost, hnote, htx, hemit, buildFrame_handshake]
      rfl
  · rw [step_host (fetch_cons hin)]
    exact congrArg _ (hostElapse_in_time (s := quiet { s with inbox := rest }) h)
  · obtain ⟨hpar, hinbox, hblk, hhost, hnote⟩ := hostDisconnect_ends .liveness
      (s := clockMoved ms (quiet { s with inbox := rest })) hconn
    have hstep := step_host (fetch_cons hin)
    rw [show hostEvent (.elapse ms) _ = _ from
      hostElapse_expired (s := quiet { s with inbox := rest }) hd hdl hlate] at hstep
    refine ⟨_, hstep, hpar, hinbox, hblk, ?_⟩
    rw [hhost]
    exact ⟨rfl, rfl, rfl, rfl, rfl, hnote⟩
  · rw [step_host (fetch_cons hin)]
    rfl

end Sys2Proof.Machine
end

section
/-! Safe states (10_state.md R35, R139, R24): what keeps the queue's part, then the block's under every operation, the
host's under every form and event, and from these the step. With it, the one source of the fault (60_exceptions.md R220). -/

namespace Sys2Proof.Machine

/-! ## The queue (R35 b, d, e, f) -/

/-- The queue's part of R35. -/
def QueueInv (par : Params) (q : List Entry) : Prop := QueueFits par q ∧ QueueOk par q ∧ PayloadsFit q

theorem blockInv_iff {par : Params} {b : Block} :
    BlockInv par b ↔ RbAtRest b.rb ∧ b.nid ≠ 0#8 ∧ QueueInv par b.q :=
  ⟨fun ⟨hrb, hfits, hnid, hok, hpay⟩ => ⟨hrb, hnid, hfits, hok, hpay⟩,
    fun ⟨hrb, hnid, hfits, hok, hpay⟩ => ⟨hrb, hfits, hnid, hok, hpay⟩⟩

theorem headOk_of_unsent {par : Params} {e : Entry} (h : Unsent e) : HeadOk par e := by
  obtain ⟨hid, htxc⟩ := h
  refine ⟨by simp [hid, htxc], ?_⟩
  split <;> simp [htxc]

theorem limitBelow_of_le {l : Limit} {m n : Nat} (hle : m ≤ n) (h : limitBelow l n = false) :
    limitBelow l m = false := by
  cases l with
  | inf => rfl
  | fin k =>
    simp only [limitBelow, decide_eq_false_iff_not] at h ⊢
    omega

theorem queueInv_nil (par : Params) : QueueInv par [] := by
  refine ⟨?_, ⟨nofun, nofun⟩, nofun⟩
  cases hd : par.qdepth <;> simp [QueueFits, limitBelow, hd]

/-- What is behind the head was never sent, so it may become the head (R24). -/
theorem queueInv_tail {par : Params} {e : Entry} {rest : List Entry} (h : QueueInv par (e :: rest)) :
    QueueInv par rest := by
  obtain ⟨hfits, ⟨-, htail⟩, hpay⟩ := h
  refine ⟨limitBelow_of_le (Nat.le_succ _) hfits, ⟨fun x hx => ?_, fun x hx => ?_⟩, fun x hx => ?_⟩
  · exact headOk_of_unsent (htail x (List.mem_of_mem_head? hx))
  · exact htail x (List.mem_of_mem_tail hx)
  · exact hpay x (List.mem_cons_of_mem _ hx)

theorem queueInv_suffix {par : Params} (front : List Entry) {q : List Entry} (h : QueueInv par (front ++ q)) :
    QueueInv par q := by
  induction front with
  | nil => exact h
  | cons e front ih => exact ih (queueInv_tail h)

theorem queueInv_acked {par : Params} {q : List Entry} (a : Byte) (h : QueueInv par q) :
    QueueInv par (ackedQueue a q) := by
  cases q with
  | nil => exact h
  | cons e rest =>
    rw [ackedQueue]
    split
    · exact queueInv_tail h
    · exact h

/-- Room for one more entry is a bound not yet reached (R181). -/
theorem queueInv_push {par : Params} {q : List Entry} {e : Entry} (h : QueueInv par q) (hroom : par.qdepth ≠ .fin q.length)
    (he : Unsent e) (hp : (entryPayload e).length ≤ 1014) : QueueInv par (q ++ [e]) := by
  obtain ⟨hfits, ⟨hhead, htail⟩, hpay⟩ := h
  refine ⟨?_, ?_, ?_⟩
  · cases hd : par.qdepth with
    | inf => simp [QueueFits, limitBelow, hd]
    | fin m =>
      simp only [QueueFits, limitBelow, hd, decide_eq_false_iff_not, List.length_append, List.length_singleton] at hfits ⊢
      have hne : m ≠ q.length := fun h => hroom (by rw [hd, h])
      omega
  · cases q with
    | nil => exact ⟨by simpa using headOk_of_unsent he, nofun⟩
    | cons x q =>
      refine ⟨hhead, fun y hy => ?_⟩
      rcases List.mem_append.1 (show y ∈ q ++ [e] from hy) with hy | hy
      · exact htail y hy
      · rwa [List.mem_singleton.1 hy]
  · intro y hy
    rcases List.mem_append.1 hy with hy | hy
    · exact hpay y hy
    · rwa [List.mem_singleton.1 hy]

/-- A head sent once more, below the bound, under an id (R194, R195). -/
theorem queueInv_sent {par : Params} {p : List Byte} {i j : Byte} {n : Nat} {rest : List Entry}
    (h : QueueInv par (.msg p i n :: rest)) (hj : j ≠ 0#8) (hm : limitSpent par.retryMax n = false) :
    QueueInv par (.msg p j (n + 1) :: rest) := by
  obtain ⟨hfits, ⟨-, htail⟩, hpay⟩ := h
  have hhead : HeadOk par (.msg p j (n + 1)) := by
    refine ⟨by simp [entryId, entryTxc, hj], ?_⟩
    cases hr : par.retryMax with
    | inf => rfl
    | fin m =>
      simp only [limitSpent, hr, decide_eq_false_iff_not] at hm
      have hle : n + 1 ≤ 1 + m := by omega
      exact decide_eq_true hle
  refine ⟨hfits, ⟨by simpa using hhead, htail⟩, fun x hx => ?_⟩
  rcases List.mem_cons.1 hx with rfl | hx
  · exact hpay (.msg p i n) List.mem_cons_self
  · exact hpay x (List.mem_cons_of_mem _ hx)

theorem nextId_ne_zero (nid : Byte) : nextId nid ≠ 0#8 := by
  unfold nextId
  split
  · decide
  · bv_omega

/-! ## The block under every operation (R35) -/

theorem rbAtRest_nil : RbAtRest [] := .inl (by simp)

theorem blockInv_cleared {par : Params} {rb : List Byte} {pack : Byte} {phs : Bool} {fault : Option Cause}
    (h : RbAtRest rb) : BlockInv par { rb, q := [], nid := 1#8, pack, phs, fault } :=
  blockInv_iff.2 ⟨h, (by decide : 1#8 ≠ 0#8), queueInv_nil par⟩

theorem tickEffect_keeps {par : Params} {b : Block} {r : Block × Out} (h : TickEffect par b r) (hb : BlockInv par b) :
    BlockInv par r.1 := by
  obtain ⟨hrb, hnid, hq⟩ := blockInv_iff.1 hb
  cases h with
  | hb => exact blockInv_iff.2 ⟨hrb, hnid, queueInv_nil par⟩
  | msg k p i n rest hp hqk hm =>
    have hid : (if i = 0#8 then b.nid else i) ≠ 0#8 := by
      split
      · exact hnid
      next hi => exact hi
    have hnext : (if i = 0#8 then nextId b.nid else b.nid) ≠ 0#8 := by
      split
      · exact nextId_ne_zero b.nid
      · exact hnid
    rw [hqk] at hq
    exact blockInv_iff.2 ⟨hrb, hnext, queueInv_sent (queueInv_suffix _ hq) hid hm⟩
  | exhausted k p i n rest hp hqk hm =>
    rw [hqk] at hq
    exact blockInv_iff.2 ⟨hrb, hnid, queueInv_suffix _ hq⟩
  | _ => exact hb

theorem tickEffect_rx {par : Params} {b : Block} {r : Block × Out} (h : TickEffect par b r) : r.2.rx = [] := by
  cases h <;> rfl

theorem opEffect_keeps {par : Params} {b : Block} {i : Instr} {r : Block × Out} (h : OpEffect par b i r)
    (hb : BlockInv par b) : BlockInv par r.1 ∧ ∀ p ∈ r.2.rx, p.payload.length ≤ 1014 := by
  obtain ⟨hrb, hnid, hq⟩ := blockInv_iff.1 hb
  cases h with
  | rxPush c =>
    obtain ⟨-, hrest, hfits⟩ := reassemble_spec _ (b.rb ++ c) le_rfl
    exact ⟨blockInv_iff.2 ⟨hrest, hnid, hq⟩, hfits⟩
  | rxFlush => exact ⟨blockInv_iff.2 ⟨rbAtRest_nil, hnid, hq⟩, nofun⟩
  | enqMsg p hfits hroom => exact ⟨blockInv_iff.2 ⟨hrb, hnid, queueInv_push hq hroom ⟨rfl, rfl⟩ hfits⟩, nofun⟩
  | enqHb hroom => exact ⟨blockInv_iff.2 ⟨hrb, hnid, queueInv_push hq hroom ⟨rfl, rfl⟩ (Nat.zero_le _)⟩, nofun⟩
  | ackRx e rest hqe =>
    rw [hqe] at hq
    exact ⟨blockInv_iff.2 ⟨hrb, hnid, queueInv_tail hq⟩, nofun⟩
  | tick r h =>
    refine ⟨tickEffect_keeps h hb, ?_⟩
    rw [tickEffect_rx h]
    exact nofun
  | clear => exact ⟨blockInv_cleared hrb, nofun⟩
  | reset => exact ⟨blockInv_cleared rbAtRest_nil, nofun⟩
  | _ => exact ⟨hb, nofun⟩

/-! ## The host under every form and event (log 12) -/

/-- The packets a host holds all fit a frame (R80). -/
abbrev TodoFits (h : HostState) : Prop := ∀ p ∈ h.todo, p.payload.length ≤ 1014

theorem hostInv_connected {h : HostState} (hc : h.conn = .connected) (hs : h.sendTimer = true) (hh : h.hbTimer = true)
    (he : h.everConnected = true) (ht : TodoFits h) : HostInv h := by
  simp [HostInv, hc, hs, hh, he]
  exact ht

theorem hostInv_not_connected {h : HostState} (hc : h.conn ≠ .connected) (hs : h.sendTimer = false)
    (hh : h.hbTimer = false) (ht : TodoFits h) : HostInv h := by
  simp [HostInv, hc, hs, hh]
  exact ht

/-- From a safe state the machine goes on in a safe state, and takes no fault and loses none. -/
def SafelyTo (s t : State) : Prop := Inv s → Inv t ∧ t.blk.fault = s.blk.fault

theorem safelyTo_quiet (s : State) : SafelyTo s (quiet s) := fun h => ⟨h, rfl⟩

/-- A block whose queue a packet's `ack` field has been looked at for. -/
theorem blockInv_acked {par : Params} {b : Block} (a pack : Byte) (phs : Bool) (h : BlockInv par b) :
    BlockInv par { b with q := ackedQueue a b.q, pack := pack, phs := phs } := by
  obtain ⟨hrb, hnid, hq⟩ := blockInv_iff.1 h
  exact blockInv_iff.2 ⟨hrb, hnid, queueInv_acked a hq⟩

section
variable {s t : State} {a : Byte} (hinv : Inv s)
include hinv

/-- A packet's form may make the host Connected, and otherwise leaves its timers, its connection and its packets alone. -/
theorem hostInv_refreshed {P : Prop} (hyes : P → ∃ r d, t.host = { s.host with
      lastRx := r, deadline := d, conn := .connected, sendTimer := true, hbTimer := true, everConnected := true })
    (hno : ¬ P → ∃ r d, t.host = { s.host with lastRx := r, deadline := d }) : HostInv t.host := by
  obtain ⟨-, -, hhost⟩ := hinv
  obtain ⟨-, -, -, htodo⟩ := id hhost
  by_cases hP : P
  · obtain ⟨r, d, hr⟩ := hyes hP
    rw [hr]
    exact hostInv_connected rfl rfl rfl rfl htodo
  · obtain ⟨r, d, hr⟩ := hno hP
    rw [hr]
    exact hhost

/-- The safe state after a form, from its three parts. -/
theorem inv_of_acked {pack : Byte} {phs : Bool} (hpar : t.par = s.par)
    (hblk : t.blk = { s.blk with q := ackedQueue a s.blk.q, pack := pack, phs := phs }) (hhost : HostInv t.host) :
    Inv t ∧ t.blk.fault = s.blk.fault := by
  obtain ⟨hok, hb, -⟩ := hinv
  refine ⟨⟨by rwa [hpar], ?_, hhost⟩, by rw [hblk]⟩
  rw [hpar, hblk]
  exact blockInv_acked a pack phs hb

end

/-- A handshake keeps the machine safe: after it the host is Connected, with both timers running (R155, R168). -/
theorem exec_handshake_safely {s t : State} {a i : Byte} {p : List Byte} (hf : s.blk.fault = none)
    (hexec : exec (.handshake a i p) s = .next t) : SafelyTo s t := by
  intro hinv
  cases hd : debounced s with
  | true =>
    rw [exec_handshake_debounced hd] at hexec
    cases hexec
    exact ⟨hinv, rfl⟩
  | false =>
    rw [exec_handshake_accepted hf hd] at hexec
    cases hexec
    have hpar := (acceptHandshake_par_inbox (s := quiet s) a).1
    have hblk := acceptHandshake_blk (s := quiet s) a hf
    have hhost : HostInv (acceptHandshake a (quiet s)).host := by
      obtain ⟨-, -, -, -, -, htodo⟩ := hinv
      rw [acceptHandshake_host]
      exact hostInv_connected rfl rfl rfl rfl htodo
    by_cases hc : s.host.conn = .connected
    · rw [if_pos (by exact hc)] at hblk
      obtain ⟨hok, hb, -⟩ := hinv
      obtain ⟨hrb, -, -⟩ := blockInv_iff.1 hb
      refine ⟨⟨by rwa [hpar], ?_, hhost⟩, by rw [hblk]; rfl⟩
      rw [hblk]
      exact blockInv_cleared hrb
    · rw [if_neg (by exact hc)] at hblk
      exact inv_of_acked hinv hpar hblk hhost

/-- The form of a packet keeps the machine safe (R153-R160). -/
theorem exec_formOf_safely {s t : State} {p : Packet} (hexec : exec (formOf p) s = .next t) : SafelyTo s t := by
  intro hinv
  cases hf : s.blk.fault with
  | some c =>
    rw [exec_form_faulted (isForm_formOf p) hf] at hexec
    cases hexec
    exact ⟨hinv, hf⟩
  | none =>
    rw [← hf]
    rcases formOf_cases p with ⟨-, -, hp⟩ | ⟨-, hid, hp⟩ | ⟨-, hp⟩ | ⟨-, hp⟩ | ⟨-, hp⟩ <;> rw [hp] at hexec
    · obtain ⟨u, hu, hblk, -, hpar, -, hyes, hno⟩ := ctrl0RefreshesOrResumes s p.ack p.payload hf
      obtain rfl : u = t := by simpa [hu] using hexec
      refine inv_of_acked hinv hpar hblk (hostInv_refreshed hinv (P := p.ack ≠ 0#8 ∧ s.host.conn ≠ .connected)
        (fun h => ⟨_, _, (hyes h.1 h.2).1⟩) (fun h => ⟨_, _, (hno ?_).1⟩))
      by_cases ha : p.ack = 0#8
      · exact .inl ha
      · exact .inr (by simpa [ha] using h)
    · obtain ⟨u, hu, hblk, hhost, -, -, hpar, -⟩ := (dataIsAckedAndDeliveredOnce s p.ack p.id p.payload hf hid).1
      obtain rfl : u = t := by simpa [hu] using hexec
      refine inv_of_acked hinv hpar hblk ?_
      rw [hhost]
      obtain ⟨-, -, hh⟩ := hinv
      exact hh
    · exact exec_handshake_safely hf hexec hinv
    · obtain ⟨⟨u, hu, hblk, -, hpar, -, hyes, hno⟩, -⟩ :=
        handshakeAckCompletesAndUnknownIsIgnored s 0#8 p.ack p.id p.payload hf
      obtain rfl : u = t := by simpa [hu] using hexec
      exact inv_of_acked hinv hpar hblk (hostInv_refreshed hinv (P := s.host.conn = .awaitingHandshake)
        (fun h => ⟨_, _, (hyes h).1⟩) (fun h => ⟨_, _, (hno h).1⟩))
    · obtain rfl : quiet s = t := by simpa using (show Host.Outcome.next (quiet s) = .next t from hexec)
      exact ⟨hinv, rfl⟩

/-- A disconnect keeps the machine safe: the queue is empty, the host Disconnected and its timers are stopped. -/
theorem hostDisconnect_safely (why : Why) (s : State) : SafelyTo s (hostDisconnect why s) := by
  intro hinv
  by_cases hc : s.host.conn = .disconnected
  · rw [hostDisconnect_of_disconnected why hc]
    exact ⟨hinv, rfl⟩
  · obtain ⟨hpar, -, hblk, hhost, -⟩ := hostDisconnect_ends why hc
    obtain ⟨hok, hb, -, -, -, htodo⟩ := hinv
    have hhostInv : HostInv (hostDisconnect why s).host := by
      rw [hhost]
      exact hostInv_not_connected nofun rfl rfl htodo
    obtain ⟨hrb, -, -⟩ := blockInv_iff.1 hb
    rw [Inv, hpar]
    refine ⟨⟨hok, ?_, hhostInv⟩, ?_⟩
    · rw [hblk]
      split
      · exact hb
      · exact blockInv_cleared hrb
    · rw [hblk]
      split <;> rfl

/-- `connect()` keeps the machine safe: the block is the reset one, and the host awaits or is Connected. -/
theorem hostConnect_safely {s : State} (hf : s.blk.fault = none) : SafelyTo s (hostConnect s) := by
  intro hinv
  obtain ⟨hok, -, -, -, -, htodo⟩ := hinv
  have hblk := connectCleared_blk hf
  have hhost := connectCleared_host s
  have hpar := (connectCleared_par_inbox s).1
  rw [Inv]
  cases hd : s.par.direct with
  | true =>
    rw [hostConnect_direct hd, becomeConnected_par, becomeConnected_blk, becomeConnected_host, hpar, hblk, hhost, hf]
    exact ⟨⟨hok, blockInv_cleared rbAtRest_nil, hostInv_connected rfl rfl rfl rfl htodo⟩, rfl⟩
  | false =>
    have hemit := opEmit_no_payload (par := s.par) (b := Block.reset) (kind := Config.kindHandshake) (ack := 0#8)
      (id := 0#8) rfl
    rw [hostConnect_handshake hd]
    dsimp only
    rw [issue_par, issue_blk, issue_host, hpar, hblk, hemit, hhost, hf]
    exact ⟨⟨hok, blockInv_cleared rbAtRest_nil, hostInv_not_connected nofun rfl rfl (by simpa using htodo)⟩, rfl⟩

/-- Every host event keeps the machine safe. -/
theorem hostEvent_safely (e : HostEvent) (s : State) : SafelyTo s (hostEvent e s) := by
  cases e with
  | connect =>
    cases hf : s.blk.fault with
    | some c =>
      rw [hostEvent, unlessFaulted_of_fault hf]
      exact safelyTo_quiet s
    | none =>
      rw [hostEvent, unlessFaulted_of_no_fault hf]
      exact hostConnect_safely (s := quiet s) hf
  | disconnect => exact hostDisconnect_safely .request (quiet s)
  | ioError => exact hostDisconnect_safely .ioError (quiet s)
  | isConnected => exact fun h => ⟨h, rfl⟩
  | answerExhausted =>
    rw [hostEvent, hostAnswer]
    split
    · exact hostDisconnect_safely .exhausted { quiet s with host := { s.host with exhausted := none } }
    · exact safelyTo_quiet s
  | elapse ms =>
    rw [hostEvent, hostElapse]
    dsimp only
    split
    · exact hostDisconnect_safely .liveness (clockMoved ms (quiet s))
    · exact fun h => ⟨h, rfl⟩

/-! ## The step -/

theorem exec_blockOp_keeps {s t : State} {i : Instr} (hi : runsBlockOp i = true) (hexec : exec i s = .next t)
    (hinv : Inv s) : Inv t := by
  obtain ⟨r, heff, hr⟩ := exec_effect hi s
  obtain rfl : afterOp s r.1 r.2 = t := by simpa [hr] using hexec
  obtain ⟨hok, hb, hsend, hhb, hever, htodo⟩ := hinv
  obtain ⟨hblk, hrx⟩ := opEffect_keeps heff hb
  refine ⟨hok, hblk, ?_⟩
  rw [afterOp_host_eq]
  refine ⟨hsend, hhb, hever, fun p hp => ?_⟩
  rcases List.mem_append.1 hp with hp | hp
  · exact htodo p hp
  · exact hrx p hp

/-- Taking the oldest packet keeps the machine safe. -/
theorem inv_packet_taken {s : State} {p : Packet} {ps : List Packet} (rest : List Input) (htodo : s.host.todo = p :: ps)
    (hinv : Inv s) : Inv { s with inbox := rest, host := { s.host with todo := ps } } := by
  obtain ⟨hok, hb, hsend, hhb, hever, hfits⟩ := hinv
  exact ⟨hok, hb, hsend, hhb, hever, fun q hq => hfits q (by rw [htodo]; exact List.mem_cons_of_mem p hq)⟩

/-- Settles O53: everything a step can do keeps the machine safe. -/
theorem everyStepKeepsTheInvariant : Obligations.EveryStepKeepsTheInvariant := by
  intro s t hinv hstep
  obtain ⟨rest, hcase⟩ := step_cases hstep
  cases hcase with
  | nothing o => exact hinv
  | command bytes i t hin hdec hexec =>
    exact exec_blockOp_keeps (runsBlockOp_of_operation (isOperation_of_decodeCommand hdec)) hexec hinv
  | operation i t hi hne hexec => exact exec_blockOp_keeps (runsBlockOp_of_operation hi) hexec hinv
  | handshake t hexec => exact exec_blockOp_keeps rfl hexec hinv
  | form p ps t htodo hexec => exact (exec_formOf_safely hexec (inv_packet_taken rest htodo hinv)).1
  | host e => exact (hostEvent_safely e { s with inbox := rest } hinv).1

/-- Settles O54. -/
theorem resetStateIsSafe : Obligations.ResetStateIsSafe :=
  ⟨⟨by decide, blockInv_cleared rbAtRest_nil, hostInv_not_connected nofun rfl rfl nofun⟩, rfl⟩

/-! ## The one source of the fault (R220, R221) -/

/-- An operation or an emitted frame takes the fault only for a payload that is too long: its own, or a queued one. -/
theorem opEffect_fault {par : Params} {b : Block} {i : Instr} {r : Block × Out} (h : OpEffect par b i r)
    (hb : b.fault = none) (hfit : PayloadsFit b.q) (hr : r.1.fault ≠ none) :
    ((∃ kind ack id p, i = .encode kind ack id p ∧ 1014 < p.length) ∨
      ∃ ack id p, i = .txData ack id p ∧ 1014 < p.length) ∧ r = raiseFault .payloadTooLong b := by
  cases h with
  | encodeTooLong kind ack id p hlong => exact ⟨.inl ⟨kind, ack, id, p, rfl, hlong⟩, rfl⟩
  | txDataTooLong ack id p hlong => exact ⟨.inr ⟨ack, id, p, rfl, hlong⟩, rfl⟩
  | tick r h =>
    cases h with
    | tooLong k p i n rest hp hq hlong => exact absurd (payload_fits_of_mem hfit hq) (Nat.not_le.2 hlong)
    | _ => exact absurd hb hr
  | reset => exact absurd rfl hr
  | _ => exact absurd hb hr

/-- What an operation or the handshake the host writes has done where it took the fault. -/
theorem exec_blockOp_fault {s t : State} {i : Instr} (hi : runsBlockOp i = true) (hexec : exec i s = .next t)
    (hinv : Inv s) (hf : s.blk.fault = none) (ht : t.blk.fault ≠ none) :
    ((∃ kind ack id p, i = .encode kind ack id p ∧ 1014 < p.length) ∨
      ∃ ack id p, i = .txData ack id p ∧ 1014 < p.length) ∧
      t.blk = { s.blk with fault := some .payloadTooLong } ∧ t.out.evt = [.faulted .payloadTooLong] := by
  obtain ⟨r, heff, hr⟩ := exec_effect hi s
  obtain rfl : afterOp s r.1 r.2 = t := by simpa [hr] using hexec
  obtain ⟨-, hb, -⟩ := hinv
  obtain ⟨-, -, -, -, hpay⟩ := blockInv_iff.1 hb
  obtain ⟨hcase, rfl⟩ := opEffect_fault heff hf hpay ht
  exact ⟨hcase, rfl, rfl⟩

/-- Settles O49: of what a step can do only the ENCODE command has an oversize payload of its own. -/
theorem onlyAnOversizeEncodeFaults : Obligations.OnlyAnOversizeEncodeFaults := by
  intro s t hinv hf hstep ht
  obtain ⟨rest, hcase⟩ := step_cases hstep
  cases hcase with
  | nothing o => exact absurd hf ht
  | command bytes i t hin hdec hexec =>
    have hop := isOperation_of_decodeCommand hdec
    obtain ⟨hlong, hblk, hevt⟩ := exec_blockOp_fault (runsBlockOp_of_operation hop) hexec hinv hf ht
    rcases hlong with ⟨kind, ack, id, p, rfl, hlong⟩ | ⟨ack, id, p, rfl, -⟩
    · exact ⟨bytes, rest, kind, ack, id, p, hin, hdec, hlong, hblk, hevt⟩
    · cases hop
  | operation i t hi hne hexec =>
    obtain ⟨hlong, -⟩ := exec_blockOp_fault (runsBlockOp_of_operation hi) hexec hinv hf ht
    rcases hlong with ⟨kind, ack, id, p, rfl, -⟩ | ⟨ack, id, p, rfl, -⟩
    · exact absurd rfl (hne kind ack id p)
    · cases hi
  | handshake t hexec =>
    obtain ⟨hlong, -⟩ := exec_blockOp_fault rfl hexec hinv hf ht
    rcases hlong with ⟨_, _, _, _, heq, -⟩ | ⟨_, _, _, heq, -⟩ <;> cases heq
  | form p ps t htodo hexec =>
    obtain ⟨-, hsame⟩ := exec_formOf_safely hexec (inv_packet_taken rest htodo hinv)
    exact absurd (hsame.trans hf) ht
  | host e =>
    obtain ⟨-, hsame⟩ := hostEvent_safely e { s with inbox := rest } hinv
    exact absurd (hsame.trans hf) ht

end Sys2Proof.Machine
end
